-- ==== Sys2Proof/Word.lean ====
section
/-!
DEFINITION. The word types of the CHIP-8 core (spec/10_state.md rules R20, R23; spec/30_encoding.md rule R70).
-/

namespace Sys2Proof

/-- A byte of memory, a general register or a timer (R20, R31, R50). -/
abbrev Byte := BitVec 8

/-- A 16-bit word: an opcode, the pc, a return address or the index register (R23, R26, R29, R70). -/
abbrev Word := BitVec 16

/-- The 12-bit address field NNN of an opcode (R70). -/
abbrev Addr := BitVec 12

/-- The 4-bit field N of an opcode (R70). -/
abbrev Nibble := BitVec 4

/-- The number of a general register, or of a key: a 4-bit index, always in 0..15 (R22, R32). -/
abbrev RegIx := Fin 16

end Sys2Proof
end

