-- ==== Sys2Proof/Config.lean ====
section
/-!
DEFINITION. The OPEN implementation parameters of spec/00_scope.md rule R9 that the dispatch reads, and the one value
the spec leaves free (the random byte of CXNN, spec/60_exceptions.md rule R216).
A `Config` is fixed per machine (R35); the state carries it, so that every definition and every claim ranges over all
parameter values (log entry 1). The default values stand in Machine/Defaults.lean.
STACK_DEPTH is the length of the return-address RAM itself, and ENTRY is the pc of the launched state.
-/

namespace Sys2Proof

/-- SHIFT_SRC: the register that 8XY6 and 8XYE shift (R146, D14). -/
inductive ShiftSrc
  | vx
  | vy
  deriving DecidableEq, Repr

/-- DRAW_EDGE: what DXYN does with pixels past the right or bottom edge (R190, D17). -/
inductive DrawEdge
  | wrap
  | clip
  deriving DecidableEq, Repr

/-- The OPEN parameters a dispatch reads (R9). -/
structure Config where
  /-- MEM_SIZE, in bytes (R50, D4). -/
  memSize : Nat
  /-- FONT_BASE, the address of the glyph of digit 0 (R162, D22). -/
  fontBase : Nat
  /-- GK_OPCODES: are the families 9 to F admitted (R77, D11). -/
  gkOpcodes : Bool
  /-- SHIFT_SRC (D14). -/
  shiftSrc : ShiftSrc
  /-- DRAW_EDGE (D17). -/
  drawEdge : DrawEdge
  /-- LDST_INC_I: do FX55 and FX65 advance I (R164, R165, D19). -/
  ldstIncI : Bool
  deriving DecidableEq, Repr

/-- DISPLAY_W (R30, D16). -/
abbrev displayW : Nat := 64

/-- DISPLAY_H (R30, D16). -/
abbrev displayH : Nat := 32

/-- The number of display cells, 64 × 32 = 2048 (R30). -/
abbrev displayCells : Nat := 2048

/-- FREE VALUE. The byte that the host oracle gives the n-th CXNN dispatch (R180, R216, D25): unconstrained, a claim
holds for every value (log entry 3). -/
opaque Config.randomByte : Nat → Byte

end Sys2Proof
end

