-- ==== Sys2Proof/Machine/Defaults.lean ====
section
/-!
DEFINITION. The default values of the OPEN parameters (spec/00_scope.md rule R9): the parameters of the reset machine and
of `decodeTableWord`. Nothing else reads them: every meaning takes its parameters from the state.
-/

namespace Sys2Proof.Machine

/-- MEM_SIZE 4096, FONT_BASE 0x000, GK_OPCODES true, SHIFT_SRC VX, DRAW_EDGE wrap, LDST_INC_I false (R9). -/
def defaultConfig : Config where
  memSize := 4096
  fontBase := 0
  gkOpcodes := true
  shiftSrc := .vx
  drawEdge := .wrap
  ldstIncI := false

/-- STACK_DEPTH, default 16 (R9, R26, D6). -/
def defaultStackDepth : Nat := 16

/-- ENTRY, default 0x200 (R9, R42, R231, D27). -/
def defaultEntry : Word := 0x200#16

end Sys2Proof.Machine
end

