-- ==== Sys2Proof/Syntax.lean ====
section
/-!
DEFINITION. The instructions of the baseline CHIP-8 set: one constructor per row of spec/opcode_table.json, with the
fields X, Y, N, NN, NNN of spec/30_encoding.md rule R70.
-/

namespace Sys2Proof

/-- One constructor per opcode row (R75). `x` and `y` are register numbers, `nn` the 8-bit immediate, `n` the row count
of DXYN and `nnn` the 12-bit address. -/
inductive Instr
  | sys (nnn : Addr)                                  -- 0NNN, R100
  | cls                                               -- 00E0, R101
  | ret                                               -- 00EE, R102
  | jpAddr (nnn : Addr)                               -- 1NNN, R110
  | callAddr (nnn : Addr)                             -- 2NNN, R111
  | seVxByte (x : RegIx) (nn : Byte)                  -- 3XNN, R120
  | sneVxByte (x : RegIx) (nn : Byte)                 -- 4XNN, R121
  | seVxVy (x y : RegIx)                              -- 5XY0, R122
  | ldVxByte (x : RegIx) (nn : Byte)                  -- 6XNN, R130
  | addVxByte (x : RegIx) (nn : Byte)                 -- 7XNN, R131
  | ldVxVy (x y : RegIx)                              -- 8XY0, R140
  | orVxVy (x y : RegIx)                              -- 8XY1, R141
  | andVxVy (x y : RegIx)                             -- 8XY2, R142
  | xorVxVy (x y : RegIx)                             -- 8XY3, R143
  | addVxVy (x y : RegIx)                             -- 8XY4, R144
  | subVxVy (x y : RegIx)                             -- 8XY5, R145
  | shrVxVy (x y : RegIx)                             -- 8XY6, R146
  | subnVxVy (x y : RegIx)                            -- 8XY7, R147
  | shlVxVy (x y : RegIx)                             -- 8XYE, R148
  | sneVxVy (x y : RegIx)                             -- 9XY0, R123
  | ldIAddr (nnn : Addr)                              -- ANNN, R160
  | jpV0Addr (nnn : Addr)                             -- BNNN, R112
  | rndVxByte (x : RegIx) (nn : Byte)                 -- CXNN, R180
  | drwVxVyNibble (x y : RegIx) (n : Nibble)          -- DXYN, R190
  | skpVx (x : RegIx)                                 -- EX9E, R124
  | sknpVx (x : RegIx)                                -- EXA1, R125
  | ldVxDt (x : RegIx)                                -- FX07, R181
  | ldVxK (x : RegIx)                                 -- FX0A, R182
  | ldDtVx (x : RegIx)                                -- FX15, R183
  | ldStVx (x : RegIx)                                -- FX18, R184
  | addIVx (x : RegIx)                                -- FX1E, R161
  | ldFVx (x : RegIx)                                 -- FX29, R162
  | ldBVx (x : RegIx)                                 -- FX33, R163
  | ldMemVx (x : RegIx)                               -- FX55, R164: LD [I], Vx
  | ldVxMem (x : RegIx)                               -- FX65, R165: LD Vx, [I]
  deriving DecidableEq, Repr

end Sys2Proof
end

