-- ==== Sys2Proof/WellFormed.lean ====
section
/-!
DEFINITION. Which terms of `Instr` are instructions of the machine. Every field is as wide as its bits (R70), so the one
check left is the precedence of 00E0 and 00EE over 0NNN (spec/30_encoding.md rule R76). Beside it the tier of each row
(R75, column "tier") and the GK_OPCODES gate (R77).
-/

namespace Sys2Proof

/-- 00E0 and 00EE are CLS and RET, never SYS (R76); every other term is well formed. -/
def Instr.wf : Instr → Bool
  | .sys nnn => nnn != 0x0E0#12 && nnn != 0x0EE#12
  | .cls => true
  | .ret => true
  | .jpAddr _ => true
  | .callAddr _ => true
  | .seVxByte _ _ => true
  | .sneVxByte _ _ => true
  | .seVxVy _ _ => true
  | .ldVxByte _ _ => true
  | .addVxByte _ _ => true
  | .ldVxVy _ _ => true
  | .orVxVy _ _ => true
  | .andVxVy _ _ => true
  | .xorVxVy _ _ => true
  | .addVxVy _ _ => true
  | .subVxVy _ _ => true
  | .shrVxVy _ _ => true
  | .subnVxVy _ _ => true
  | .shlVxVy _ _ => true
  | .sneVxVy _ _ => true
  | .ldIAddr _ => true
  | .jpV0Addr _ => true
  | .rndVxByte _ _ => true
  | .drwVxVyNibble _ _ _ => true
  | .skpVx _ => true
  | .sknpVx _ => true
  | .ldVxDt _ => true
  | .ldVxK _ => true
  | .ldDtVx _ => true
  | .ldStVx _ => true
  | .addIVx _ => true
  | .ldFVx _ => true
  | .ldBVx _ => true
  | .ldMemVx _ => true
  | .ldVxMem _ => true

/-- The rows of the general-knowledge tier: families 9, A, B, C, D, E and F (R7, R75, R77). -/
def Instr.isGk : Instr → Bool
  | .sys _ => false
  | .cls => false
  | .ret => false
  | .jpAddr _ => false
  | .callAddr _ => false
  | .seVxByte _ _ => false
  | .sneVxByte _ _ => false
  | .seVxVy _ _ => false
  | .ldVxByte _ _ => false
  | .addVxByte _ _ => false
  | .ldVxVy _ _ => false
  | .orVxVy _ _ => false
  | .andVxVy _ _ => false
  | .xorVxVy _ _ => false
  | .addVxVy _ _ => false
  | .subVxVy _ _ => false
  | .shrVxVy _ _ => false
  | .subnVxVy _ _ => false
  | .shlVxVy _ _ => false
  | .sneVxVy _ _ => true
  | .ldIAddr _ => true
  | .jpV0Addr _ => true
  | .rndVxByte _ _ => true
  | .drwVxVyNibble _ _ _ => true
  | .skpVx _ => true
  | .sknpVx _ => true
  | .ldVxDt _ => true
  | .ldVxK _ => true
  | .ldDtVx _ => true
  | .ldStVx _ => true
  | .addIVx _ => true
  | .ldFVx _ => true
  | .ldBVx _ => true
  | .ldMemVx _ => true
  | .ldVxMem _ => true

/-- Is the row admitted by the machine's GK_OPCODES parameter (R77). -/
def Instr.admitted (gk : Bool) (i : Instr) : Bool := gk || !i.isGk

end Sys2Proof
end

