-- ==== Sys2Proof/Decode.lean ====
section
/-!
DEFINITION. The bit-field extractor, the decode tree and the encoder (spec/30_encoding.md rules R70 to R79).
-/

namespace Sys2Proof

/-! ### Bytes of an opcode (R55: big-endian) -/

/-- The opcode whose byte at the lower address is `hi` and whose byte at the next address is `lo` (R53, R55, D1). -/
def joinBytes (hi lo : Byte) : Word := hi ++ lo

/-- op[15:8], the byte at the lower address (R55). -/
def highByte (op : Word) : Byte := BitVec.ofNat 8 (op.toNat / 256)

/-- op[7:0], the byte at the higher address (R55). -/
def lowByte (op : Word) : Byte := BitVec.ofNat 8 op.toNat

/-! ### The bit-field extractor -/

/-- `op & (2^(4n) - 1)`: the lowest `n` nibbles, for 0 ≤ n ≤ 4 (R71); a call with n > 4 is refused by the type (R72, D33). -/
def lastNQuadbits (op : Word) (n : Fin 5) : Word := op &&& BitVec.ofNat 16 (2 ^ (4 * n.val) - 1)

/-- op[11:8], `(op >> 8) & 0xF` (R71). -/
def xRegister (op : Word) : RegIx := ⟨op.toNat / 256 % 16, Nat.mod_lt _ (by decide)⟩

/-- op[7:4], `(op >> 4) & 0xF` (R71). -/
def yRegister (op : Word) : RegIx := ⟨op.toNat / 16 % 16, Nat.mod_lt _ (by decide)⟩

/-- F, the top nibble op[15:12], the "instruction family selector" (R70). -/
def family (op : Word) : Nat := op.toNat / 4096

/-- N = op[3:0] (R70). -/
def nField (op : Word) : Nibble := (lastNQuadbits op 1).setWidth 4

/-- NN = op[7:0] (R70). -/
def nnField (op : Word) : Byte := (lastNQuadbits op 2).setWidth 8

/-- NNN = op[11:0] (R70). -/
def nnnField (op : Word) : Addr := (lastNQuadbits op 3).setWidth 12

/-! ### The decode tree -/

/-- Why bytes do not decode. -/
inductive DecodeError
  /-- The opcode matches no known pattern, or its family is not admitted (R77, R78): UnmappedInstruction. -/
  | unmapped (op : Word)
  /-- Fewer than the two bytes of an opcode (R73). -/
  | truncated
  deriving DecidableEq, Repr

/-- Family 0: the two exact values are tested before the 0NNN catch-all (R76). -/
def decodeFamily0 (op : Word) : Except DecodeError Instr :=
  if op = 0x00E0#16 then .ok .cls
  else if op = 0x00EE#16 then .ok .ret
  else .ok (.sys (nnnField op))

/-- Family 8 decodes on N (R76). -/
def decodeFamily8 (op : Word) : Except DecodeError Instr :=
  match (nField op).toNat with
  | 0x0 => .ok (.ldVxVy (xRegister op) (yRegister op))
  | 0x1 => .ok (.orVxVy (xRegister op) (yRegister op))
  | 0x2 => .ok (.andVxVy (xRegister op) (yRegister op))
  | 0x3 => .ok (.xorVxVy (xRegister op) (yRegister op))
  | 0x4 => .ok (.addVxVy (xRegister op) (yRegister op))
  | 0x5 => .ok (.subVxVy (xRegister op) (yRegister op))
  | 0x6 => .ok (.shrVxVy (xRegister op) (yRegister op))
  | 0x7 => .ok (.subnVxVy (xRegister op) (yRegister op))
  | 0xE => .ok (.shlVxVy (xRegister op) (yRegister op))
  | _ => .error (.unmapped op)

/-- Family E decodes on NN (R76). -/
def decodeFamilyE (op : Word) : Except DecodeError Instr :=
  match (nnField op).toNat with
  | 0x9E => .ok (.skpVx (xRegister op))
  | 0xA1 => .ok (.sknpVx (xRegister op))
  | _ => .error (.unmapped op)

/-- Family F decodes on NN (R76). -/
def decodeFamilyF (op : Word) : Except DecodeError Instr :=
  match (nnField op).toNat with
  | 0x07 => .ok (.ldVxDt (xRegister op))
  | 0x0A => .ok (.ldVxK (xRegister op))
  | 0x15 => .ok (.ldDtVx (xRegister op))
  | 0x18 => .ok (.ldStVx (xRegister op))
  | 0x1E => .ok (.addIVx (xRegister op))
  | 0x29 => .ok (.ldFVx (xRegister op))
  | 0x33 => .ok (.ldBVx (xRegister op))
  | 0x55 => .ok (.ldMemVx (xRegister op))
  | 0x65 => .ok (.ldVxMem (xRegister op))
  | _ => .error (.unmapped op)

/-- Families 0 to 8, the source tier (R75). In family 5 the low nibble must be 0 (R76, D9). -/
def decodeSource (op : Word) : Except DecodeError Instr :=
  match family op with
  | 0x0 => decodeFamily0 op
  | 0x1 => .ok (.jpAddr (nnnField op))
  | 0x2 => .ok (.callAddr (nnnField op))
  | 0x3 => .ok (.seVxByte (xRegister op) (nnField op))
  | 0x4 => .ok (.sneVxByte (xRegister op) (nnField op))
  | 0x5 => if nField op = 0 then .ok (.seVxVy (xRegister op) (yRegister op)) else .error (.unmapped op)
  | 0x6 => .ok (.ldVxByte (xRegister op) (nnField op))
  | 0x7 => .ok (.addVxByte (xRegister op) (nnField op))
  | 0x8 => decodeFamily8 op
  | _ => .error (.unmapped op)

/-- Families 9 to F, the general-knowledge tier (R75). In family 9 the low nibble must be 0 (R76, D9). -/
def decodeGk (op : Word) : Except DecodeError Instr :=
  match family op with
  | 0x9 => if nField op = 0 then .ok (.sneVxVy (xRegister op) (yRegister op)) else .error (.unmapped op)
  | 0xA => .ok (.ldIAddr (nnnField op))
  | 0xB => .ok (.jpV0Addr (nnnField op))
  | 0xC => .ok (.rndVxByte (xRegister op) (nnField op))
  | 0xD => .ok (.drwVxVyNibble (xRegister op) (yRegister op) (nField op))
  | 0xE => decodeFamilyE op
  | 0xF => decodeFamilyF op
  | _ => .error (.unmapped op)

/-- The decode tree on one opcode, top nibble first (R75), with the GK_OPCODES gate (R77). Total on all 65536 values (R79). -/
def decodeOp (gk : Bool) (op : Word) : Except DecodeError Instr :=
  if family op ≤ 8 then decodeSource op
  else if gk then decodeGk op
  else .error (.unmapped op)

/-- The decoder on bytes: it takes exactly the two bytes of one opcode (R73) and leaves the rest. -/
def decode (gk : Bool) : List Byte → Except DecodeError (Instr × List Byte)
  | hi :: lo :: rest =>
    match decodeOp gk (joinBytes hi lo) with
    | .ok i => .ok (i, rest)
    | .error e => .error e
  | _ => .error .truncated

/-! ### The encoder -/

/-- F | X | Y | N (R70). -/
def wordXYN (f : Nibble) (x y : RegIx) (n : Nibble) : Word := f ++ BitVec.ofFin (w := 4) x ++ BitVec.ofFin (w := 4) y ++ n

/-- F | X | NN (R70). -/
def wordXNN (f : Nibble) (x : RegIx) (nn : Byte) : Word := f ++ BitVec.ofFin (w := 4) x ++ nn

/-- F | NNN (R70). -/
def wordNNN (f : Nibble) (nnn : Addr) : Word := f ++ nnn

/-- The opcode of an instruction, from the patterns of the opcode table (R75). -/
def encode : Instr → Word
  | .sys nnn => wordNNN 0x0 nnn
  | .cls => 0x00E0#16
  | .ret => 0x00EE#16
  | .jpAddr nnn => wordNNN 0x1 nnn
  | .callAddr nnn => wordNNN 0x2 nnn
  | .seVxByte x nn => wordXNN 0x3 x nn
  | .sneVxByte x nn => wordXNN 0x4 x nn
  | .seVxVy x y => wordXYN 0x5 x y 0x0
  | .ldVxByte x nn => wordXNN 0x6 x nn
  | .addVxByte x nn => wordXNN 0x7 x nn
  | .ldVxVy x y => wordXYN 0x8 x y 0x0
  | .orVxVy x y => wordXYN 0x8 x y 0x1
  | .andVxVy x y => wordXYN 0x8 x y 0x2
  | .xorVxVy x y => wordXYN 0x8 x y 0x3
  | .addVxVy x y => wordXYN 0x8 x y 0x4
  | .subVxVy x y => wordXYN 0x8 x y 0x5
  | .shrVxVy x y => wordXYN 0x8 x y 0x6
  | .subnVxVy x y => wordXYN 0x8 x y 0x7
  | .shlVxVy x y => wordXYN 0x8 x y 0xE
  | .sneVxVy x y => wordXYN 0x9 x y 0x0
  | .ldIAddr nnn => wordNNN 0xA nnn
  | .jpV0Addr nnn => wordNNN 0xB nnn
  | .rndVxByte x nn => wordXNN 0xC x nn
  | .drwVxVyNibble x y n => wordXYN 0xD x y n
  | .skpVx x => wordXNN 0xE x 0x9E
  | .sknpVx x => wordXNN 0xE x 0xA1
  | .ldVxDt x => wordXNN 0xF x 0x07
  | .ldVxK x => wordXNN 0xF x 0x0A
  | .ldDtVx x => wordXNN 0xF x 0x15
  | .ldStVx x => wordXNN 0xF x 0x18
  | .addIVx x => wordXNN 0xF x 0x1E
  | .ldFVx x => wordXNN 0xF x 0x29
  | .ldBVx x => wordXNN 0xF x 0x33
  | .ldMemVx x => wordXNN 0xF x 0x55
  | .ldVxMem x => wordXNN 0xF x 0x65

/-- The two bytes of an instruction as the loader stores them, high byte first (R55). -/
def encodeBytes (i : Instr) : List Byte := [highByte (encode i), lowByte (encode i)]

/-! ### The opcode table as rows (spec/opcode_table.json, columns mask and match) -/

/-- The fixed bits of an instruction's row: an opcode `op` lies in the row when `op & mask = value`. -/
structure OpcodeRow where
  mask : Word
  value : Word
  deriving DecidableEq, Repr

/-- The row of spec/opcode_table.json an instruction stands for. -/
def Instr.row : Instr → OpcodeRow
  | .sys _ => ⟨0xF000, 0x0000⟩
  | .cls => ⟨0xFFFF, 0x00E0⟩
  | .ret => ⟨0xFFFF, 0x00EE⟩
  | .jpAddr _ => ⟨0xF000, 0x1000⟩
  | .callAddr _ => ⟨0xF000, 0x2000⟩
  | .seVxByte _ _ => ⟨0xF000, 0x3000⟩
  | .sneVxByte _ _ => ⟨0xF000, 0x4000⟩
  | .seVxVy _ _ => ⟨0xF00F, 0x5000⟩
  | .ldVxByte _ _ => ⟨0xF000, 0x6000⟩
  | .addVxByte _ _ => ⟨0xF000, 0x7000⟩
  | .ldVxVy _ _ => ⟨0xF00F, 0x8000⟩
  | .orVxVy _ _ => ⟨0xF00F, 0x8001⟩
  | .andVxVy _ _ => ⟨0xF00F, 0x8002⟩
  | .xorVxVy _ _ => ⟨0xF00F, 0x8003⟩
  | .addVxVy _ _ => ⟨0xF00F, 0x8004⟩
  | .subVxVy _ _ => ⟨0xF00F, 0x8005⟩
  | .shrVxVy _ _ => ⟨0xF00F, 0x8006⟩
  | .subnVxVy _ _ => ⟨0xF00F, 0x8007⟩
  | .shlVxVy _ _ => ⟨0xF00F, 0x800E⟩
  | .sneVxVy _ _ => ⟨0xF00F, 0x9000⟩
  | .ldIAddr _ => ⟨0xF000, 0xA000⟩
  | .jpV0Addr _ => ⟨0xF000, 0xB000⟩
  | .rndVxByte _ _ => ⟨0xF000, 0xC000⟩
  | .drwVxVyNibble _ _ _ => ⟨0xF000, 0xD000⟩
  | .skpVx _ => ⟨0xF0FF, 0xE09E⟩
  | .sknpVx _ => ⟨0xF0FF, 0xE0A1⟩
  | .ldVxDt _ => ⟨0xF0FF, 0xF007⟩
  | .ldVxK _ => ⟨0xF0FF, 0xF00A⟩
  | .ldDtVx _ => ⟨0xF0FF, 0xF015⟩
  | .ldStVx _ => ⟨0xF0FF, 0xF018⟩
  | .addIVx _ => ⟨0xF0FF, 0xF01E⟩
  | .ldFVx _ => ⟨0xF0FF, 0xF029⟩
  | .ldBVx _ => ⟨0xF0FF, 0xF033⟩
  | .ldMemVx _ => ⟨0xF0FF, 0xF055⟩
  | .ldVxMem _ => ⟨0xF0FF, 0xF065⟩

/-! ### The host's question about one row -/

/-- What the decoder reads from the instruction whose bits are `w`, of which the table gives `nbits` (bits above are 0):
its two bytes laid out high byte first, decoded with the default GK_OPCODES. -/
def decodeTableWord (nbits w : Nat) : Option Instr :=
  let op : Word := BitVec.ofNat 16 (w % 2 ^ nbits)
  match decode Machine.defaultConfig.gkOpcodes [highByte op, lowByte op] with
  | .ok (i, _) => some i
  | .error _ => none

end Sys2Proof
end

