-- ==== Sys2Proof/Machine/State.lean ====
section
/-!
DEFINITION. The machine state (spec/10_state.md section 1), why a dispatch can stop (spec/60_exceptions.md section 1), and
the canonical reset state (spec/10_state.md rules R40 to R48).
-/

namespace Sys2Proof.Machine

/-- The display buffer: 32 rows of 64 one-bit cells. Disp[k] of the flat row-major array, k = y*64 + x, is bit x of row y
(R30, D16; log entry 4; `Display.cell` in Machine/Ops.lean). -/
abbrev Display := Vector (BitVec displayW) displayH

/-- Memory contents as address and byte pairs in rising order of address; a byte equal to what an unlisted address reads
as is not listed (`Memory.wf` in Machine/Ops.lean). -/
abbrev Memory := List Host.Cell

/-- Everything the spec gives the machine. The last two fields are the model's own (log entries 1 and 3). -/
structure State where
  /-- V[0..15]; V[15] is also the flag register VF (R20, R21). -/
  v : Vector Byte 16
  /-- The program counter (R23). -/
  pc : Word
  /-- The return-address RAM, Stack[0] first; its length is STACK_DEPTH (R26). -/
  stack : List Word
  /-- The stack pointer, the index of the next free slot (R27). -/
  sp : Nat
  /-- The index register I (R29). -/
  index : Word
  /-- The display buffer (R30). -/
  disp : Display
  /-- The delay timer DT (R31). -/
  dt : Byte
  /-- The sound timer ST (R31). -/
  st : Byte
  /-- Key[0..15], true when pressed (R32). -/
  keys : Vector Bool 16
  /-- Mem (R33, R50). -/
  mem : Memory
  /-- MODEL'S OWN: the parameters this machine is built with (R9); no step writes them (R35). -/
  cfg : Config
  /-- MODEL'S OWN: how many random bytes CXNN has drawn; it selects the next free value (R216). -/
  draws : Nat
  deriving DecidableEq, Repr

/-- The subkinds of StackViolation (R200, R203). -/
inductive StackSubkind
  /-- 2NNN at sp = STACK_DEPTH. -/
  | overflow
  /-- 00EE at sp = 0. -/
  | underflow
  deriving DecidableEq, Repr

/-- The errors of a dispatch or of the fetch before it (R200). Each ends the step with `Err(kind, info)` and changes no
state (R206); the model stops there (R208), as the spec says. All four are the spec's own, so none is a difference from
it; stopping is SAFE where the caller would resume (R210). -/
inductive Fault
  /-- Code 1. Raised by 0NNN other than 00E0 and 00EE (R100, R201); the info is the opcode. Safe. -/
  | unsupportedInstruction (op : Word)
  /-- Code 2. Raised by every unassigned encoding, and by families 9 to F when GK_OPCODES is false (R202, R77, R78); the
  info is the opcode. Safe. -/
  | unmappedInstruction (op : Word)
  /-- Code 3.1 or 3.2. Raised by 2NNN on a full stack and by 00EE on an empty one (R203); the info is the opcode. Safe. -/
  | stackViolation (kind : StackSubkind) (op : Word)
  /-- Code 4. Raised by the fetch (info pc), by FX33, FX55, FX65 and DXYN (info max(I, MEM_SIZE)), and by EX9E and EXA1
  (info V[X]) (R52, R53, R124, R204). Safe. -/
  | outOfRange (at_ : Nat)
  deriving DecidableEq, Repr

/-- Why the model gives a state no step. -/
inductive Refusal
  /-- Raised by `exec`'s arm of an instruction that has no meaning yet. Safe: the run stops. -/
  | notModelled (mnemonic : String)
  /-- Raised by `step`, `dispatch`, 2NNN and 00EE in a state whose sp lies outside 0..STACK_DEPTH: the caller preset it
  and it breaks the precondition of every rule (R28, R204). Safe: the run stops. -/
  | stackPointerOutOfRange (sp : Nat)
  deriving DecidableEq, Repr

/-- The canonical state the caller constructs before the first dispatch, for any parameters, STACK_DEPTH and ENTRY
(R230, R40 to R48): sp = 0, pc = ENTRY, everything else 0, and memory with nothing loaded. Only sp = 0 is the source's
(log entry 2). -/
def State.launch (cfg : Config) (stackDepth : Nat) (entry : Word) : State where
  v := Vector.replicate 16 0
  pc := entry
  stack := List.replicate stackDepth 0
  sp := 0
  index := 0
  disp := Vector.replicate displayH 0
  dt := 0
  st := 0
  keys := Vector.replicate 16 false
  mem := []
  cfg := cfg
  draws := 0

/-- The machine right after reset, with the default parameters (R9, R230). -/
def State.reset : State := State.launch defaultConfig defaultStackDepth defaultEntry

end Sys2Proof.Machine
end

