-- ==== Sys2Proof/Machine/Ops.lean ====
section
/-!
DEFINITION. The named operations over memory, registers, stack, display and keys that the meanings share, and the one
operation that raises an error.
-/

namespace Sys2Proof.Machine

/-! ### Memory contents (R50) -/

/-- What a byte of memory that nothing has written reads as: the canonical 0x00 (R48, D26; log entry 2). -/
def blankByte : Byte := 0

/-- The canonical form: addresses strictly rising, and no entry that equals what an unlisted address reads as. -/
abbrev Memory.wf (m : Memory) : Prop :=
  m.Pairwise (fun c d => c.1 < d.1) ∧ ∀ c ∈ m, c.2 ≠ blankByte

/-- The byte at an address. -/
def Memory.read : Memory → Nat → Byte
  | [], _ => blankByte
  | (k, b) :: rest, a => if k = a then b else Memory.read rest a

/-- The contents with nothing listed at an address. -/
def Memory.erase (m : Memory) (a : Nat) : Memory := m.filter (fun c => c.1 != a)

/-- List a byte at its place in the rising order. -/
def Memory.insert (a : Nat) (b : Byte) : Memory → Memory
  | [] => [(a, b)]
  | (k, c) :: rest => if a < k then (a, b) :: (k, c) :: rest else (k, c) :: Memory.insert a b rest

/-- The contents after `Mem[a] <- b`, in canonical form. -/
def Memory.write (m : Memory) (a : Nat) (b : Byte) : Memory :=
  if b = blankByte then m.erase a else Memory.insert a b (m.erase a)

/-! ### Errors (spec/60_exceptions.md) -/

/-- ERROR ENTRY, the one operation every error goes through: the dispatch ends with `Err(kind, info)` and control returns
to the caller. Nothing is saved, no mode changes, no vector is taken and no state is written (R206, R207); there is no
return-from-error instruction (R210), and a faulted state is never a final state (R208). -/
def raise (f : Fault) : Host.Outcome State Fault Refusal := .fault f

/-- What the caller records of an error: the code of its kind, its subkind, and its info (R200, D35). -/
structure ErrReport where
  code : Nat
  subcode : Option Nat
  info : Nat
  deriving DecidableEq, Repr

/-- The table of R200. -/
def Fault.report : Fault → ErrReport
  | .unsupportedInstruction op => ⟨1, none, op.toNat⟩
  | .unmappedInstruction op => ⟨2, none, op.toNat⟩
  | .stackViolation .overflow op => ⟨3, some 1, op.toNat⟩
  | .stackViolation .underflow op => ⟨3, some 2, op.toNat⟩
  | .outOfRange a => ⟨4, none, a⟩

/-! ### General registers (R20) -/

/-- V[x]. -/
def State.getV (s : State) (x : RegIx) : Byte := s.v[x]

/-- V[x] <- b. No register is hardwired (R20). -/
def State.setV (s : State) (x : RegIx) (b : Byte) : State := { s with v := s.v.set x b }

/-- The number of VF (R21). -/
def flagReg : RegIx := 15

/-- All sixteen registers at once (FX65). -/
def State.setAllV (s : State) (f : RegIx → Byte) : State := { s with v := Vector.ofFn f }

/-! ### Program counter (R24, R25) -/

/-- pc <- target. -/
def State.setPc (s : State) (target : Word) : State := { s with pc := target }

/-- pc <- (pc + 2) mod 2^16, the normal advance (R24). -/
def State.advance (s : State) : State := { s with pc := s.pc + 2 }

/-- A taken skip advances pc by 4, an untaken one by 2 (R24; spec/42_skip.md). -/
def State.skipIf (s : State) (c : Bool) : State := { s with pc := if c then s.pc + 4 else s.pc + 2 }

/-! ### Call stack (R26, R27) -/

/-- STACK_DEPTH, the number of slots of this machine's return-address RAM (R26). -/
def State.stackDepth (s : State) : Nat := s.stack.length

/-- Stack[sp] <- pc; sp <- sp + 1 (R27). -/
def State.push (s : State) : State := { s with stack := s.stack.set s.sp s.pc, sp := s.sp + 1 }

/-- sp <- sp - 1; pc <- Stack[sp], read at the new sp; the slot keeps its value (R27, D7). -/
def State.pop (s : State) : State := { s with sp := s.sp - 1, pc := s.stack.getD (s.sp - 1) 0 }

/-- A state whose sp lies outside 0..STACK_DEPTH breaks the precondition of every rule and gets no step (R28, R204). -/
def State.whenSpInRange (s : State) (r : Host.Outcome State Fault Refusal) : Host.Outcome State Fault Refusal :=
  if s.stackDepth < s.sp then .refused (.stackPointerOutOfRange s.sp) else r

/-! ### Index register, timers and keys (R29, R31, R32) -/

/-- I <- w. -/
def State.setIndex (s : State) (w : Word) : State := { s with index := w }

/-- DT <- b. -/
def State.setDt (s : State) (b : Byte) : State := { s with dt := b }

/-- ST <- b. -/
def State.setSt (s : State) (b : Byte) : State := { s with st := b }

/-- Key[k]. -/
def State.key (s : State) (k : RegIx) : Bool := s.keys[k]

/-- Key[k] <- down (the keyboard collaborator's write, R215). -/
def State.setKey (s : State) (k : RegIx) (down : Bool) : State := { s with keys := s.keys.set k down }

/-- The lowest pressed key, `min (k | Key[k] = 1)`, if any (R182). -/
def State.lowestKey (s : State) : Option RegIx := (List.finRange 16).find? s.key

/-! ### Display cells (R30) -/

/-- Row y of the display, its bit x being the cell of column x. -/
def Display.row (d : Display) (y : Nat) : BitVec displayW := d[y]?.getD 0

/-- Disp[k], the cell of column k mod 64 and row k div 64. -/
def Display.cell (d : Display) (k : Nat) : Bool := (d.row (k / displayW)).getLsbD (k % displayW)

/-- Disp[k] <- Disp[k] ^ 1. -/
def Display.flip (d : Display) (k : Nat) : Display :=
  d.setIfInBounds (k / displayW) (d.row (k / displayW) ^^^ BitVec.twoPow displayW (k % displayW))

/-- All cells 0. -/
def Display.clear : Display := Vector.replicate displayH 0

/-- Disp[k] of the state. -/
def State.cell (s : State) (k : Nat) : Bool := Display.cell s.disp k

/-- Replace the display buffer. -/
def State.setDisp (s : State) (d : Display) : State := { s with disp := d }

/-! ### Memory of the state (R50 to R57) -/

/-- Mem[a] (for a < MEM_SIZE). -/
def State.byteAt (s : State) (a : Nat) : Byte := s.mem.read a

/-- Mem[a] <- b (for a < MEM_SIZE). -/
def State.setByte (s : State) (a : Nat) (b : Byte) : State := { s with mem := s.mem.write a b }

/-- Mem[a], Mem[a+1], … <- the bytes in order, one byte at a time (R57). -/
def State.setBytes (s : State) (a : Nat) : List Byte → State
  | [] => s
  | b :: rest => State.setBytes (s.setByte a b) (a + 1) rest

/-- Do the `n` bytes from `a`, addressed as natural numbers with no wrap, all lie below MEM_SIZE (R52, D37). With n = 0 no
byte is touched. -/
def State.spanFits (s : State) (a n : Nat) : Bool := n == 0 || a + n ≤ s.cfg.memSize

/-- The one range check of a data access: every address is checked before anything is written, and the error records the
lowest failing address, max(I, MEM_SIZE) (R52, R200, D5, D37). -/
def State.whenSpanFits (s : State) (a n : Nat) (t : State) : Host.Outcome State Fault Refusal :=
  if s.spanFits a n then .next t else raise (.outOfRange (max a s.cfg.memSize))

/-- The fetch `Mem[pc] ++ Mem[pc+1]`; none when pc + 1 ≥ MEM_SIZE (R53). It does not change pc (R13, R23). -/
def State.fetch (s : State) : Option Word :=
  if s.pc.toNat + 1 < s.cfg.memSize then some (joinBytes (s.byteAt s.pc.toNat) (s.byteAt (s.pc.toNat + 1))) else none

/-- Store an opcode where the next fetch reads it, high byte first; nothing where no fetch can succeed. -/
def State.placeOpcode (s : State) (op : Word) : State :=
  if s.pc.toNat + 1 < s.cfg.memSize then s.setBytes s.pc.toNat [highByte op, lowByte op] else s

/-! ### The random oracle (R216) -/

/-- The byte the host oracle gives this dispatch: a free value. -/
def State.randomByte (s : State) : Byte := Config.randomByte s.draws

/-- The draw is used up: the next CXNN draws afresh. -/
def State.countDraw (s : State) : State := { s with draws := s.draws + 1 }

end Sys2Proof.Machine
end

