-- ==== Sys2Proof/Machine/Operands.lean ====
section
/-!
DEFINITION. The operand forms of spec/30_encoding.md rule R74 and of the instruction rules: immediates, the shift source,
the key index, glyph addresses, decimal digits and sprite coordinates.
-/

namespace Sys2Proof.Machine

/-- `zext_16(NNN)` (R74). -/
def zextAddr (nnn : Addr) : Word := nnn.setWidth 16

/-- `zext_16` of a register byte, for `NNN + V[0]` and `I + V[X]` (R112, R161). -/
def zextByte (b : Byte) : Word := b.setWidth 16

/-- The source of a shift: VX or VY as SHIFT_SRC says (R146, R148, D14). -/
def State.shiftOperand (s : State) (x y : RegIx) : Byte :=
  match s.cfg.shiftSrc with
  | .vx => s.getV x
  | .vy => s.getV y

/-- A register byte as a key number; none above 15, where EX9E and EXA1 raise OutOfRange (R124, R125, D21). -/
def keyIndex (b : Byte) : Option RegIx := if h : b.toNat < 16 then some ⟨b.toNat, h⟩ else none

/-- `(FONT_BASE + 5 * (V[X] & 0xF)) mod 2^16` (R162, D22). -/
def State.glyphAddress (s : State) (b : Byte) : Word := BitVec.ofNat 16 (s.cfg.fontBase + 5 * (b.toNat % 16))

/-- The decimal digits of a byte, the most significant first (R163). -/
def decimalDigits (b : Byte) : List Byte :=
  [BitVec.ofNat 8 (b.toNat / 100), BitVec.ofNat 8 (b.toNat / 10 % 10), BitVec.ofNat 8 (b.toNat % 10)]

/-- V[0], …, V[X], the bytes FX55 stores (R164). -/
def State.regsUpTo (s : State) (x : RegIx) : List Byte :=
  List.ofFn (fun k : Fin (x.val + 1) => s.getV (k.castLE x.isLt))

/-- I after FX55 or FX65: advanced past the last byte when LDST_INC_I, unchanged otherwise (R164, R165, D19). -/
def State.indexAfterTransfer (s : State) (x : RegIx) : Word :=
  if s.cfg.ldstIncI then s.index + BitVec.ofNat 16 (x.val + 1) else s.index

/-- The start column, `V[X] mod W` (R190). -/
def originX (b : Byte) : Nat := b.toNat % displayW

/-- The start row, `V[Y] mod H` (R190). -/
def originY (b : Byte) : Nat := b.toNat % displayH

end Sys2Proof.Machine
end

