-- ==== Sys2Proof/Machine/Flags.lean ====
section
/-!
DEFINITION. The flag computations: VF is the one flag (spec/10_state.md rule R34).
-/

namespace Sys2Proof.Machine

/-- `(c ? 1 : 0)` as the byte VF receives (R10). -/
def flagByte (c : Bool) : Byte := if c then 1 else 0

/-- The carry out of bit 7 of an addition, `vx + vy >= 256` (R144). -/
def carryOut (a b : Byte) : Bool := 256 ≤ a.toNat + b.toNat

/-- No borrow: minuend ≥ subtrahend (R145, R147, D13). -/
def noBorrow (minuend subtrahend : Byte) : Bool := subtrahend.toNat ≤ minuend.toNat

/-- The bit a right shift pushes out, bit 0 (R146). -/
def lostRight (src : Byte) : Bool := src.getLsbD 0

/-- The bit a left shift pushes out, bit 7 (R148). -/
def lostLeft (src : Byte) : Bool := src.getLsbD 7

/-- `V[X] <- r`, then `V[F] <- flag`: the flag is written last, so with X = F it is what stays (R144 to R148, D12). -/
def State.setResultAndFlag (s : State) (x : RegIx) (r : Byte) (flag : Bool) : State :=
  (s.setV x r).setV flagReg (flagByte flag)

end Sys2Proof.Machine
end

