-- ==== Sys2Proof/Machine/Alu.lean ====
section
/-!
DEFINITION. The register ALU family 8XYn (spec/44_alu.md). Operands are read at the start of the dispatch; every member
advances pc by 2 and raises no error.
-/

namespace Sys2Proof.Machine

/-- LD Vx, Vy (R140). -/
def execLdVxVy (x y : RegIx) (s : State) : Host.Outcome State Fault Refusal :=
  .next (s.setV x (s.getV y)).advance

/-- OR Vx, Vy (R141): VF is not reset (D15). -/
def execOrVxVy (x y : RegIx) (s : State) : Host.Outcome State Fault Refusal :=
  .next (s.setV x (s.getV x ||| s.getV y)).advance

/-- AND Vx, Vy (R142). -/
def execAndVxVy (x y : RegIx) (s : State) : Host.Outcome State Fault Refusal :=
  .next (s.setV x (s.getV x &&& s.getV y)).advance

/-- XOR Vx, Vy (R143). -/
def execXorVxVy (x y : RegIx) (s : State) : Host.Outcome State Fault Refusal :=
  .next (s.setV x (s.getV x ^^^ s.getV y)).advance

/-- ADD Vx, Vy (R144). -/
def execAddVxVy (x y : RegIx) (s : State) : Host.Outcome State Fault Refusal :=
  .next (s.setResultAndFlag x (s.getV x + s.getV y) (carryOut (s.getV x) (s.getV y))).advance

/-- SUB Vx, Vy (R145): VX − VY. -/
def execSubVxVy (x y : RegIx) (s : State) : Host.Outcome State Fault Refusal :=
  .next (s.setResultAndFlag x (s.getV x - s.getV y) (noBorrow (s.getV x) (s.getV y))).advance

/-- SHR Vx, Vy (R146). -/
def execShrVxVy (x y : RegIx) (s : State) : Host.Outcome State Fault Refusal :=
  .next (s.setResultAndFlag x (s.shiftOperand x y >>> 1) (lostRight (s.shiftOperand x y))).advance

/-- SUBN Vx, Vy (R147): VY − VX. -/
def execSubnVxVy (x y : RegIx) (s : State) : Host.Outcome State Fault Refusal :=
  .next (s.setResultAndFlag x (s.getV y - s.getV x) (noBorrow (s.getV y) (s.getV x))).advance

/-- SHL Vx, Vy (R148). -/
def execShlVxVy (x y : RegIx) (s : State) : Host.Outcome State Fault Refusal :=
  .next (s.setResultAndFlag x (s.shiftOperand x y <<< 1) (lostLeft (s.shiftOperand x y))).advance

end Sys2Proof.Machine
end

