-- ==== Sys2Proof/Machine/Draw.lean ====
section
/-!
DEFINITION. Sprite draw and collision flag (spec/47_draw.md).
-/

namespace Sys2Proof.Machine

/-- The display under a draw, and the collision noted so far (R190). -/
structure Canvas where
  disp : Display
  collide : Bool
  deriving DecidableEq, Repr

/-- `(b >> (7 - c)) & 1`: bit 7 is the leftmost pixel (R190, R191). -/
def spriteBit (b : Byte) (c : Nat) : Bool := b.getLsbD (7 - c)

/-- `if Disp[k] == 1: collide = 1; Disp[k] <- Disp[k] ^ 1` (R190). -/
def Canvas.flipCell (cv : Canvas) (k : Nat) : Canvas where
  disp := Display.flip cv.disp k
  collide := cv.collide || Display.cell cv.disp k

/-- One set sprite pixel at (px, py): past the right or bottom edge it wraps or is dropped, as DRAW_EDGE says (R190, D17). -/
def Canvas.plot (cv : Canvas) (edge : DrawEdge) (px py : Nat) : Canvas :=
  match edge with
  | .wrap => cv.flipCell (py % displayH * displayW + px % displayW)
  | .clip => if displayW ≤ px ∨ displayH ≤ py then cv else cv.flipCell (py * displayW + px)

/-- One sprite row: its eight pixels, left to right (R190). -/
def Canvas.drawRow (cv : Canvas) (edge : DrawEdge) (x0 py : Nat) (b : Byte) : Canvas :=
  (List.range 8).foldl (fun cv c => if spriteBit b c then cv.plot edge (x0 + c) py else cv) cv

/-- The sprite rows from top to bottom (R190, R191). -/
def Canvas.drawRows (cv : Canvas) (edge : DrawEdge) (x0 y0 : Nat) (rows : List Byte) : Canvas :=
  match rows with
  | [] => cv
  | b :: rest => (cv.drawRow edge x0 y0 b).drawRows edge x0 (y0 + 1) rest

/-- The sprite: N consecutive bytes at I, one a row (R191). -/
def State.spriteRows (s : State) (n : Nat) : List Byte := (List.range n).map (fun r => s.byteAt (s.index.toNat + r))

/-- The display and the collision after drawing an n-row sprite at (V[X] mod W, V[Y] mod H) (R190). -/
def State.drawSprite (s : State) (x y : RegIx) (n : Nat) : Canvas :=
  Canvas.drawRows ⟨s.disp, false⟩ s.cfg.drawEdge (originX (s.getV x)) (originY (s.getV y)) (s.spriteRows n)

/-- DRW Vx, Vy, nibble (R190): VF is written last, whatever X and Y are. -/
def execDrwVxVyNibble (x y : RegIx) (n : Nibble) (s : State) : Host.Outcome State Fault Refusal :=
  s.whenSpanFits s.index.toNat n.toNat
    ((s.setDisp (s.drawSprite x y n.toNat).disp).setV flagReg (flagByte (s.drawSprite x y n.toNat).collide)).advance

end Sys2Proof.Machine
end

