-- ==== Sys2Proof/Machine/IndexMemory.lean ====
section
/-!
DEFINITION. The index register and the memory transfers (spec/45_index_memory.md). Addresses are I plus a natural offset,
with no wrap, and are all checked before the first write (R52).
-/

namespace Sys2Proof.Machine

/-- LD I, addr (R160). -/
def execLdIAddr (nnn : Addr) (s : State) : Host.Outcome State Fault Refusal :=
  .next (s.setIndex (zextAddr nnn)).advance

/-- ADD I, Vx (R161): modulo 2^16, VF untouched (D23). -/
def execAddIVx (x : RegIx) (s : State) : Host.Outcome State Fault Refusal :=
  .next (s.setIndex (s.index + zextByte (s.getV x))).advance

/-- LD F, Vx (R162). -/
def execLdFVx (x : RegIx) (s : State) : Host.Outcome State Fault Refusal :=
  .next (s.setIndex (s.glyphAddress (s.getV x))).advance

/-- LD B, Vx (R163). -/
def execLdBVx (x : RegIx) (s : State) : Host.Outcome State Fault Refusal :=
  s.whenSpanFits s.index.toNat 3 (s.setBytes s.index.toNat (decimalDigits (s.getV x))).advance

/-- LD [I], Vx (R164). -/
def execLdMemVx (x : RegIx) (s : State) : Host.Outcome State Fault Refusal :=
  s.whenSpanFits s.index.toNat (x.val + 1)
    ((s.setBytes s.index.toNat (s.regsUpTo x)).setIndex (s.indexAfterTransfer x)).advance

/-- LD Vx, [I] (R165). -/
def execLdVxMem (x : RegIx) (s : State) : Host.Outcome State Fault Refusal :=
  s.whenSpanFits s.index.toNat (x.val + 1)
    ((s.setAllV (fun j => if j ≤ x then s.byteAt (s.index.toNat + j.val) else s.getV j)).setIndex
      (s.indexAfterTransfer x)).advance

end Sys2Proof.Machine
end

