-- ==== Sys2Proof/Machine/JumpCall.lean ====
section
/-!
DEFINITION. Jumps and calls (spec/41_jump_call.md).
-/

namespace Sys2Proof.Machine

/-- JP addr (R110). -/
def execJpAddr (nnn : Addr) (s : State) : Host.Outcome State Fault Refusal :=
  .next (s.setPc (zextAddr nnn))

/-- CALL addr (R111): it pushes its own address, not pc + 2. -/
def execCallAddr (nnn : Addr) (s : State) : Host.Outcome State Fault Refusal :=
  s.whenSpInRange
    (if s.sp = s.stackDepth then raise (.stackViolation .overflow (encode (.callAddr nnn)))
     else .next (s.push.setPc (zextAddr nnn)))

/-- JP V0, addr (R112): the offset register is V0 whatever X is (D24). -/
def execJpV0Addr (nnn : Addr) (s : State) : Host.Outcome State Fault Refusal :=
  .next (s.setPc (zextAddr nnn + zextByte (s.getV 0)))

end Sys2Proof.Machine
end

