-- ==== Sys2Proof/Machine/LoadAdd.lean ====
section
/-!
DEFINITION. Immediate load and add (spec/43_load_add.md).
-/

namespace Sys2Proof.Machine

/-- LD Vx, byte (R130). -/
def execLdVxByte (x : RegIx) (nn : Byte) (s : State) : Host.Outcome State Fault Refusal :=
  .next (s.setV x nn).advance

/-- ADD Vx, byte (R131): modulo 2^8, no flag update. -/
def execAddVxByte (x : RegIx) (nn : Byte) (s : State) : Host.Outcome State Fault Refusal :=
  .next (s.setV x (s.getV x + nn)).advance

end Sys2Proof.Machine
end

