-- ==== Sys2Proof/Machine/Skip.lean ====
section
/-!
DEFINITION. Conditional skips (spec/42_skip.md). No skip writes a register or a flag, and none looks at the instruction it
bypasses.
-/

namespace Sys2Proof.Machine

/-- SE Vx, byte (R120). -/
def execSeVxByte (x : RegIx) (nn : Byte) (s : State) : Host.Outcome State Fault Refusal :=
  .next (s.skipIf (s.getV x == nn))

/-- SNE Vx, byte (R121). -/
def execSneVxByte (x : RegIx) (nn : Byte) (s : State) : Host.Outcome State Fault Refusal :=
  .next (s.skipIf (s.getV x != nn))

/-- SE Vx, Vy (R122). -/
def execSeVxVy (x y : RegIx) (s : State) : Host.Outcome State Fault Refusal :=
  .next (s.skipIf (s.getV x == s.getV y))

/-- SNE Vx, Vy (R123). -/
def execSneVxVy (x y : RegIx) (s : State) : Host.Outcome State Fault Refusal :=
  .next (s.skipIf (s.getV x != s.getV y))

/-- The shared shape of EX9E and EXA1: V[X] must be a key number, and the skip is taken when that key's state is `down`
(R124, R125). -/
def State.skipOnKey (s : State) (x : RegIx) (down : Bool) : Host.Outcome State Fault Refusal :=
  match keyIndex (s.getV x) with
  | some k => .next (s.skipIf (s.key k == down))
  | none => raise (.outOfRange (s.getV x).toNat)

/-- SKP Vx (R124). -/
def execSkpVx (x : RegIx) (s : State) : Host.Outcome State Fault Refusal := s.skipOnKey x true

/-- SKNP Vx (R125). -/
def execSknpVx (x : RegIx) (s : State) : Host.Outcome State Fault Refusal := s.skipOnKey x false

end Sys2Proof.Machine
end

