-- ==== Sys2Proof/Machine/System.lean ====
section
/-!
DEFINITION. Family 0: SYS, CLS, RET (spec/40_system.md).
-/

namespace Sys2Proof.Machine

/-- SYS addr (R100): not executed; UnsupportedInstruction always, pc unchanged (D8). -/
def execSys (nnn : Addr) (_ : State) : Host.Outcome State Fault Refusal :=
  raise (.unsupportedInstruction (encode (.sys nnn)))

/-- CLS (R101). -/
def execCls (s : State) : Host.Outcome State Fault Refusal :=
  .next (s.setDisp Display.clear).advance

/-- RET (R102): pc is the popped value exactly, with no +2. -/
def execRet (s : State) : Host.Outcome State Fault Refusal :=
  s.whenSpInRange (if s.sp = 0 then raise (.stackViolation .underflow (encode .ret)) else .next s.pop)

end Sys2Proof.Machine
end

