-- ==== Sys2Proof/Machine/TimersKeysRandom.lean ====
section
/-!
DEFINITION. Random, timers and key wait (spec/46_timers_keys_random.md).
-/

namespace Sys2Proof.Machine

/-- RND Vx, byte (R180): the oracle's byte masked by NN; the byte is a free value (R216, D25). -/
def execRndVxByte (x : RegIx) (nn : Byte) (s : State) : Host.Outcome State Fault Refusal :=
  .next (s.setV x (s.randomByte &&& nn)).countDraw.advance

/-- LD Vx, DT (R181). -/
def execLdVxDt (x : RegIx) (s : State) : Host.Outcome State Fault Refusal :=
  .next (s.setV x s.dt).advance

/-- LD Vx, K (R182): the lowest pressed key; with none pressed nothing changes and pc still addresses this FX0A, so the
next step dispatches it again (D20). -/
def execLdVxK (x : RegIx) (s : State) : Host.Outcome State Fault Refusal :=
  match s.lowestKey with
  | some k => .next (s.setV x (BitVec.ofNat 8 k.val)).advance
  | none => .next s

/-- LD DT, Vx (R183). -/
def execLdDtVx (x : RegIx) (s : State) : Host.Outcome State Fault Refusal :=
  .next (s.setDt (s.getV x)).advance

/-- LD ST, Vx (R184). -/
def execLdStVx (x : RegIx) (s : State) : Host.Outcome State Fault Refusal :=
  .next (s.setSt (s.getV x)).advance

end Sys2Proof.Machine
end

