-- ==== Sys2Proof/Machine/Transaction.lean ====
section
/-!
DEFINITION. The block's one operation, `Dispatch(op, S)` (spec/00_scope.md rule R12), and what its caller sees of it.
-/

namespace Sys2Proof.Machine

/-- `Dispatch(op, S)`: decode, then run the instruction; an opcode that does not decode is UnmappedInstruction (R12, R75,
R202). A state with sp outside its range gets no step (R204). -/
def dispatch (op : Word) (s : State) : Host.Outcome State Fault Refusal :=
  s.whenSpInRange
    (match decodeOp s.cfg.gkOpcodes op with
     | .ok i => exec i s
     | .error _ => raise (.unmappedInstruction op))

/-- The step of the whole core, `Step(S) = Dispatch(MemRead(S.pc, 2), S)` (R13): a fetch out of range raises
OutOfRange(pc) and does not dispatch (R53), before every other check (R209). -/
def fetchAndDispatch (s : State) : Host.Outcome State Fault Refusal :=
  s.whenSpInRange
    (match s.fetch with
     | some op => dispatch op s
     | none => raise (.outOfRange s.pc.toNat))

/-- What a dispatch returns to its caller (R12, R200). -/
inductive Reply
  /-- `Ok(S')`. -/
  | ok (s : State)
  /-- `Err(kind, info, S)`: the report, and the state unchanged (R206, R207). -/
  | err (report : ErrReport) (s : State)
  /-- The state has no step: a precondition failure (R204). -/
  | noStep
  deriving DecidableEq, Repr

/-- The transaction as its caller sees it: on an error the caller still holds the state, from which it may stop, change
the state, or invoke dispatch again (R12, R206, R207, R210). -/
def transact (op : Word) (s : State) : Reply :=
  match dispatch op s with
  | .next t => .ok t
  | .fault f => .err f.report s
  | .refused _ => .noStep

end Sys2Proof.Machine
end

