-- ==== Sys2Proof/Machine/Step.lean ====
section
/-!
DEFINITION. The step of the core, and the placing of one instruction where the step fetches it.
-/

namespace Sys2Proof.Machine

/-- One core step: fetch at pc, decode, execute (R13, R235). -/
def step (s : State) : Host.Outcome State Fault Refusal := fetchAndDispatch s

/-- The state with the instruction whose bits are `w` (`nbits` of them, the bits above 0) stored at pc, high byte first
(R53, R55). Nothing else changes: the core simply fetches at pc (log entry 6). -/
def State.withFetchWord (s : State) (nbits w : Nat) : State := s.placeOpcode (BitVec.ofNat 16 (w % 2 ^ nbits))

end Sys2Proof.Machine
end

