-- ==== Sys2Proof/Machine/Collaborators.lean ====
section
/-!
DEFINITION. The collaborators of the core and their steps (spec/60_exceptions.md rules R213 to R218): the program loader,
which acts before the first dispatch, and the timer driver, the keyboard and the renderer, which act between dispatches.
-/

namespace Sys2Proof.Machine

/-! ### The loader and the boot order (R213, R232 to R234) -/

/-- One write of the program loader, before execution begins: any byte of Mem, or any register (R213). -/
inductive LoaderStep
  | byte (a : Nat) (b : Byte)
  | reg (x : RegIx) (b : Byte)
  | pc (w : Word)
  | sp (n : Nat)
  | index (w : Word)
  | dt (b : Byte)
  | st (b : Byte)
  deriving DecidableEq, Repr

/-- The loader writes one byte of Mem; an address at or above MEM_SIZE is no byte of Mem and nothing is written (R50). -/
def State.loadByte (s : State) (a : Nat) (b : Byte) : State := if a < s.cfg.memSize then s.setByte a b else s

/-- The effect of one loader write (R213). -/
def LoaderStep.apply (e : LoaderStep) (s : State) : State :=
  match e with
  | .byte a b => s.loadByte a b
  | .reg x b => s.setV x b
  | .pc w => s.setPc w
  | .sp n => { s with sp := n }
  | .index w => s.setIndex w
  | .dt b => s.setDt b
  | .st b => s.setSt b

/-- The loader writes bytes from an address upward (R232). -/
def State.loadBytes (s : State) (a : Nat) : List Byte → State
  | [] => s
  | b :: rest => (s.loadByte a b).loadBytes (a + 1) rest

/-- The hexadecimal font: the five bytes of each digit's glyph (R233). -/
def fontTable : Vector (List Byte) 16 :=
  #v[[0xF0, 0x90, 0x90, 0x90, 0xF0],
     [0x20, 0x60, 0x20, 0x20, 0x70],
     [0xF0, 0x10, 0xF0, 0x80, 0xF0],
     [0xF0, 0x10, 0xF0, 0x10, 0xF0],
     [0x90, 0x90, 0xF0, 0x10, 0x10],
     [0xF0, 0x80, 0xF0, 0x10, 0xF0],
     [0xF0, 0x80, 0xF0, 0x90, 0xF0],
     [0xF0, 0x10, 0x20, 0x40, 0x40],
     [0xF0, 0x90, 0xF0, 0x90, 0xF0],
     [0xF0, 0x90, 0xF0, 0x10, 0xF0],
     [0xF0, 0x90, 0xF0, 0x90, 0x90],
     [0xE0, 0x90, 0xE0, 0x90, 0xE0],
     [0xF0, 0x80, 0x80, 0x80, 0xF0],
     [0xE0, 0x90, 0x90, 0x90, 0xE0],
     [0xF0, 0x80, 0xF0, 0x80, 0xF0],
     [0xF0, 0x80, 0xF0, 0x80, 0x80]]

/-- The glyph of a digit (R233). -/
def glyph (digit : RegIx) : List Byte := fontTable[digit]

/-- The 80-byte font, digit d at offset 5d (R233). -/
def fontBytes : List Byte := (List.finRange 16).flatMap glyph

/-- The loader writes the font at FONT_BASE (R233). -/
def State.loadFont (s : State) : State := s.loadBytes s.cfg.fontBase fontBytes

/-- The boot order: the canonical state, then the font, then the program image from ENTRY upward, and pc = ENTRY (R234). -/
def boot (cfg : Config) (stackDepth : Nat) (entry : Word) (image : List Byte) : State :=
  ((State.launch cfg stackDepth entry).loadFont.loadBytes entry.toNat image).setPc entry

/-! ### The host steps between dispatches (R214 to R218) -/

/-- One tick of the 60 Hz driver: each timer that is not 0 goes down by 1; neither wraps (R214, D29). -/
def State.timerTick (s : State) : State :=
  { s with dt := if s.dt = 0 then 0 else s.dt - 1, st := if s.st = 0 then 0 else s.st - 1 }

/-- The frame the renderer reads: the 2048 cells in order of index (R217). -/
def State.frame (s : State) : List Bool := (List.range displayCells).map s.cell

/-- The tone sounds while ST > 0 (R218; a convention outside the core). -/
def State.toneOn (s : State) : Bool := s.st != 0

/-- The steps a collaborator may take at any dispatch boundary (R61, R235). -/
inductive HostStep
  /-- The timer driver ticks (R214). -/
  | timerTick
  /-- The keyboard sets a key to pressed or not pressed (R215). -/
  | keyWrite (k : RegIx) (down : Bool)
  /-- The renderer reads the display and changes nothing (R217). -/
  | render
  deriving DecidableEq, Repr

/-- The effect of one host step. -/
def HostStep.apply (e : HostStep) (s : State) : State :=
  match e with
  | .timerTick => s.timerTick
  | .keyWrite k down => s.setKey k down
  | .render => s

end Sys2Proof.Machine
end

