-- ==== Sys2Proof/Machine/Schedule.lean ====
section
/-!
DEFINITION. Runs of the core under a schedule of its collaborators (spec/70_reset_and_hazards.md rules R235, R236): core
steps with any number of host steps, in any order, between any two of them.
-/

namespace Sys2Proof.Machine

/-- One move of a run. -/
inductive Action
  | core
  | host (e : HostStep)
  deriving DecidableEq, Repr

/-- The effect of one move. -/
def Action.apply (a : Action) (s : State) : Host.Outcome State Fault Refusal :=
  match a with
  | .core => step s
  | .host e => .next (e.apply s)

/-- A run under a schedule; it ends at the first Err (R235). -/
def runSchedule : List Action → State → Host.Outcome State Fault Refusal
  | [], s => .next s
  | a :: rest, s =>
    match a.apply s with
    | .next t => runSchedule rest t
    | .fault f => .fault f
    | .refused r => .refused r

/-- The run has ended Finished: pc addresses an opcode 1NNN with NNN = pc, a jump to itself (R236, D30). -/
def State.finished (s : State) : Bool :=
  match s.fetch with
  | some op => family op == 0x1 && zextAddr (nnnField op) == s.pc
  | none => false

end Sys2Proof.Machine
end

