-- ==== Sys2Proof/Safety.lean ====
section
/-!
DEFINITION. The words the claims are stated in: the invariant of the machine, the frame of an instruction, the tier of an
encoding, and the causes of an error.
-/

namespace Sys2Proof.Machine

/-- The invariant: memory lists only addresses below MEM_SIZE (R50), 0 ≤ sp ≤ STACK_DEPTH (R28), and memory is in canonical form,
the model's own way of holding it (log entry 20, DESIGN CHOICE). -/
abbrev State.Inv (s : State) : Prop :=
  Memory.wf s.mem ∧ (∀ c ∈ s.mem, c.1 < s.cfg.memSize) ∧ s.sp ≤ s.stackDepth

/-- The parts of the state beside the general registers and pc. -/
inductive Part
  | stack
  | sp
  | index
  | disp
  | dt
  | st
  | keys
  | mem
  | cfg
  | draws
  deriving DecidableEq, Repr

/-- Does the part hold in `t` what it holds in `s`; the display cell by cell, memory byte by byte. -/
def Part.same (p : Part) (s t : State) : Prop :=
  match p with
  | .stack => t.stack = s.stack
  | .sp => t.sp = s.sp
  | .index => t.index = s.index
  | .disp => ∀ k, t.cell k = s.cell k
  | .dt => t.dt = s.dt
  | .st => t.st = s.st
  | .keys => ∀ k, t.key k = s.key k
  | .mem => ∀ a, t.byteAt a = s.byteAt a
  | .cfg => t.cfg = s.cfg
  | .draws => t.draws = s.draws

/-- THE FRAME: from `s` to `t` every general register but those in `regs`, and every part but those in `parts`, holds what
it held. The program counter may change. -/
def Frame (regs : List RegIx) (parts : List Part) (s t : State) : Prop :=
  (∀ j, j ∉ regs → t.getV j = s.getV j) ∧ ∀ p, p ∉ parts → p.same s t

/-- Every byte outside the `n` bytes from `a` reads as before. -/
def KeptOutside (a n : Nat) (s t : State) : Prop := ∀ b, (b < a ∨ a + n ≤ b) → t.byteAt b = s.byteAt b

/-- Every glyph of the font stands in memory at its place, FONT_BASE + 5d (R233). -/
def State.HoldsFont (s : State) : Prop :=
  ∀ (d : RegIx) (k : Nat), k < 5 → s.byteAt (s.cfg.fontBase + 5 * d.val + k) = (glyph d).getD k 0

/-- The opcode is the instruction's, whatever GK_OPCODES is: a row of the source tier (R75, R77). -/
def SourceTier (op : Word) (i : Instr) : Prop := ∀ gk, decodeOp gk op = .ok i

/-- The opcode is the instruction's when GK_OPCODES is true and unmapped when it is false: a row of the GK tier (R77). -/
def GkTier (op : Word) (i : Instr) : Prop :=
  decodeOp true op = .ok i ∧ decodeOp false op = .error (.unmapped op)

/-- An outcome with its next state changed by `f`. -/
def mapNext (f : State → State) : Host.Outcome State Fault Refusal → Host.Outcome State Fault Refusal
  | .next s => .next (f s)
  | .fault r => .fault r
  | .refused r => .refused r

/-- Is the sprite bit for the cell at column `px`, row `py` set, for an N-row sprite drawn at (x0, y0) with bytes
`row 0, …, row (n-1)`: the closed form of R190's loops, for each edge rule. -/
def spriteCovers (edge : DrawEdge) (x0 y0 n : Nat) (row : Nat → Byte) (px py : Nat) : Bool :=
  match edge with
  | .wrap =>
    (px + displayW - x0) % displayW < 8 && (py + displayH - y0) % displayH < n &&
      (row ((py + displayH - y0) % displayH)).getLsbD (7 - (px + displayW - x0) % displayW)
  | .clip => x0 ≤ px && px - x0 < 8 && y0 ≤ py && py - y0 < n && (row (py - y0)).getLsbD (7 - (px - x0))

end Sys2Proof.Machine
end

