-- ==== Sys2Proof/Certificates/Slice0/Obligations.lean ====
section
/-!
DEFINITION. The statements for the provers. Each docstring names the rules it formalises.
`SourceTier` and `GkTier` say which instruction an opcode is; `Frame regs parts s t` says that every register but `regs` and
every part of the state but `parts` is kept (Safety.lean).
-/

open Sys2Proof Sys2Proof.Machine

/-! ### Encoding (spec/30_encoding.md) -/

/-- R71: `lastNQuadbits(op, n)` is `op & (2^(4n) - 1)` and keeps exactly the lowest n nibbles; `xRegister` is
`(op >> 8) & 0xF` and depends on bits 8 to 11 alone, `yRegister` is `(op >> 4) & 0xF` and depends on bits 4 to 7 alone. -/
def Obligations.ExtractorIsolatesNibbles : Prop :=
  (∀ (op : Word) (n : Fin 5), lastNQuadbits op n = op &&& BitVec.ofNat 16 (2 ^ (4 * n.val) - 1) ∧
    ∀ k, (lastNQuadbits op n).getLsbD k = (decide (k < 4 * n.val) && op.getLsbD k)) ∧
  (∀ op : Word, (xRegister op).val = (op.toNat >>> 8) &&& 0xF ∧ (yRegister op).val = (op.toNat >>> 4) &&& 0xF) ∧
  (∀ op op' : Word, (∀ k, 8 ≤ k → k < 12 → op.getLsbD k = op'.getLsbD k) → xRegister op = xRegister op') ∧
  (∀ op op' : Word, (∀ k, 4 ≤ k → k < 8 → op.getLsbD k = op'.getLsbD k) → yRegister op = yRegister op')

/-- Words written out bit by bit from the opcode table decode to their instructions; unassigned words do not decode. -/
def Obligations.WrittenOutWordsDecode : Prop :=
  decodeOp true 0b0000_0000_1110_1110 = .ok .ret ∧
  decodeOp true 0b0010_0100_0000_0000 = .ok (.callAddr 0x400) ∧
  decodeOp true 0b0011_0101_1111_1110 = .ok (.seVxByte 5 0xFE) ∧
  decodeOp true 0b0110_1010_0101_1100 = .ok (.ldVxByte 0xA 0x5C) ∧
  decodeOp true 0b1000_0001_0010_1110 = .ok (.shlVxVy 1 2) ∧
  decodeOp true 0b1000_0001_0010_0101 = .ok (.subVxVy 1 2) ∧
  decodeOp true 0b1010_0010_1111_0000 = .ok (.ldIAddr 0x2F0) ∧
  decodeOp true 0b1101_0000_1111_0001 = .ok (.drwVxVyNibble 0 0xF 1) ∧
  decodeOp true 0b1110_0011_1010_0001 = .ok (.sknpVx 3) ∧
  decodeOp true 0b1111_0010_0110_0101 = .ok (.ldVxMem 2) ∧
  decodeOp true 0b0101_0001_0010_0001 = .error (.unmapped 0x5121) ∧
  decodeOp false 0b1010_0001_0010_0011 = .error (.unmapped 0xA123)

/-- Decoding the bytes of a well-formed, admitted instruction gives it back with every operand, and leaves the bytes after
it. -/
def Obligations.DecodeOfEncodeIsInstruction : Prop :=
  ∀ (gk : Bool) (i : Instr) (rest : List Byte), i.wf = true → i.admitted gk = true →
    decode gk (encodeBytes i ++ rest) = .ok (i, rest)

/-- An opcode that decodes is the encoding of what it decodes to, which is well formed and admitted. -/
def Obligations.EncodeOfDecodeIsOpcode : Prop :=
  ∀ (gk : Bool) (op : Word) (i : Instr), decodeOp gk op = .ok i →
    encode i = op ∧ i.wf = true ∧ i.admitted gk = true

/-- An opcode that decodes lies in the opcode-table row of what it decodes to. -/
def Obligations.DecodedOpcodeLiesInItsRow : Prop :=
  ∀ (gk : Bool) (op : Word) (i : Instr), decodeOp gk op = .ok i → op &&& i.row.mask = i.row.value

/-- The opcodes that do not decode are exactly the unassigned ones: 5XYn and 9XYn with n ≠ 0, 8XYn with n in 8 to D or F, EXnn
and FXnn with an unlisted nn, and all of families 9 to F when GK_OPCODES is false; the opcodes that decode to SYS are exactly
0NNN other than 00E0 and 00EE. -/
def Obligations.UnassignedOpcodesAreUnmapped : Prop :=
  ∀ (gk : Bool) (op : Word),
    (decodeOp gk op = .error (.unmapped op) ↔
      (op.toNat / 4096 = 5 ∧ op.toNat % 16 ≠ 0) ∨
      (op.toNat / 4096 = 8 ∧ 8 ≤ op.toNat % 16 ∧ op.toNat % 16 ≠ 0xE) ∨
      (9 ≤ op.toNat / 4096 ∧ gk = false) ∨
      (op.toNat / 4096 = 9 ∧ op.toNat % 16 ≠ 0) ∨
      (op.toNat / 4096 = 0xE ∧ op.toNat % 256 ≠ 0x9E ∧ op.toNat % 256 ≠ 0xA1) ∨
      (op.toNat / 4096 = 0xF ∧ op.toNat % 256 ∉ [0x07, 0x0A, 0x15, 0x18, 0x1E, 0x29, 0x33, 0x55, 0x65])) ∧
    (∀ nnn, decodeOp gk op = .ok (.sys nnn) ↔
      op.toNat / 4096 = 0 ∧ op ≠ 0x00E0 ∧ op ≠ 0x00EE ∧ nnn.toNat = op.toNat % 4096) ∧
    (∀ e, decodeOp gk op = .error e → e = .unmapped op)

/-! ### The step -/

/-- A step is `exec` of the instruction that the two bytes at pc decode to, at the same state: the fetch does not move pc. -/
def Obligations.StepRunsDecodedInstruction : Prop :=
  ∀ (s : State) (i : Instr), s.sp ≤ s.stackDepth → s.pc.toNat + 1 < s.cfg.memSize →
    decode s.cfg.gkOpcodes [s.byteAt s.pc.toNat, s.byteAt (s.pc.toNat + 1)] = .ok (i, []) → step s = exec i s

/-- R53: the fetch is `Mem[pc] ++ Mem[pc+1]`, taken before each dispatch; if pc + 1 ≥ MEM_SIZE the step raises OutOfRange(pc)
and does not dispatch. -/
def Obligations.FetchChecksRange : Prop :=
  ∀ s : State, s.sp ≤ s.stackDepth →
    (s.pc.toNat + 1 < s.cfg.memSize → step s = dispatch (s.byteAt s.pc.toNat ++ s.byteAt (s.pc.toNat + 1)) s) ∧
    (s.cfg.memSize ≤ s.pc.toNat + 1 → step s = .fault (.outOfRange s.pc.toNat))

/-- The model gives a state no step exactly when sp lies outside 0..STACK_DEPTH; in every other state a step answers a next
state or one of the errors. That such a state is refused before the fetch and whatever its opcode is the model's deduction
(log entry 7, DEDUCED) from the spec's own inference "does not give it a step". -/
def Obligations.RefusedExactlyWhenSpOutOfRange : Prop :=
  ∀ (s : State) (r : Refusal), step s = .refused r ↔ s.stackDepth < s.sp ∧ r = .stackPointerOutOfRange s.sp

/-- The error of a step, with its info, and every state it is raised in: the fetch check first, then decode, then the stack
check, then the range check on memory or key. -/
def Obligations.StepErrorCauses : Prop :=
  ∀ (s : State) (f : Fault), s.sp ≤ s.stackDepth →
    (step s = .fault f ↔
      (s.cfg.memSize ≤ s.pc.toNat + 1 ∧ f = .outOfRange s.pc.toNat) ∨
      (s.pc.toNat + 1 < s.cfg.memSize ∧ ∃ op, op = joinBytes (s.byteAt s.pc.toNat) (s.byteAt (s.pc.toNat + 1)) ∧
        ((decodeOp s.cfg.gkOpcodes op = .error (.unmapped op) ∧ f = .unmappedInstruction op) ∨
         (op.toNat / 4096 = 0 ∧ op ≠ 0x00E0 ∧ op ≠ 0x00EE ∧ f = .unsupportedInstruction op) ∨
         (op.toNat / 4096 = 2 ∧ s.sp = s.stackDepth ∧ f = .stackViolation .overflow op) ∨
         (op = 0x00EE ∧ s.sp = 0 ∧ f = .stackViolation .underflow op) ∨
         (s.cfg.gkOpcodes = true ∧ op.toNat / 4096 = 0xE ∧ (op.toNat % 256 = 0x9E ∨ op.toNat % 256 = 0xA1) ∧
           16 ≤ (s.getV (xRegister op)).toNat ∧ f = .outOfRange (s.getV (xRegister op)).toNat) ∨
         (s.cfg.gkOpcodes = true ∧ f = .outOfRange (max s.index.toNat s.cfg.memSize) ∧
           ((op.toNat / 4096 = 0xF ∧ op.toNat % 256 = 0x33 ∧ s.cfg.memSize < s.index.toNat + 3) ∨
            (op.toNat / 4096 = 0xF ∧ (op.toNat % 256 = 0x55 ∨ op.toNat % 256 = 0x65) ∧
              s.cfg.memSize < s.index.toNat + (xRegister op).val + 1) ∨
            (op.toNat / 4096 = 0xD ∧ op.toNat % 16 ≠ 0 ∧ s.cfg.memSize < s.index.toNat + op.toNat % 16))))))

/-- A failing dispatch returns its error to the caller with the state unchanged, under the codes and infos of the error
table, each from the opcodes the table gives it and in the states that fail its check. -/
def Obligations.ErrorReturnsStateUnchanged : Prop :=
  ∀ (op : Word) (s t : State) (r : ErrReport), transact op s = .err r t →
    t = s ∧
    ((r = ⟨1, none, op.toNat⟩ ∧ op.toNat / 4096 = 0 ∧ op ≠ 0x00E0 ∧ op ≠ 0x00EE) ∨
     (r = ⟨2, none, op.toNat⟩ ∧ decodeOp s.cfg.gkOpcodes op = .error (.unmapped op)) ∨
     (r = ⟨3, some 1, op.toNat⟩ ∧ op.toNat / 4096 = 2 ∧ s.sp = s.stackDepth) ∨
     (r = ⟨3, some 2, op.toNat⟩ ∧ op = 0x00EE ∧ s.sp = 0) ∨
     (s.cfg.gkOpcodes = true ∧ r = ⟨4, none, max s.index.toNat s.cfg.memSize⟩ ∧
       ((op.toNat / 4096 = 0xF ∧ op.toNat % 256 = 0x33 ∧ s.cfg.memSize < s.index.toNat + 3) ∨
        (op.toNat / 4096 = 0xF ∧ (op.toNat % 256 = 0x55 ∨ op.toNat % 256 = 0x65) ∧
          s.cfg.memSize < s.index.toNat + (xRegister op).val + 1) ∨
        (op.toNat / 4096 = 0xD ∧ op.toNat % 16 ≠ 0 ∧ s.cfg.memSize < s.index.toNat + op.toNat % 16))) ∨
     (s.cfg.gkOpcodes = true ∧ r = ⟨4, none, (s.getV (xRegister op)).toNat⟩ ∧ op.toNat / 4096 = 0xE ∧
       (op.toNat % 256 = 0x9E ∨ op.toNat % 256 = 0xA1) ∧ 16 ≤ (s.getV (xRegister op)).toNat))

/-! ### Invariants -/

/-- R40: after reset sp = 0 and the stack is empty, for any parameters. -/
def Obligations.ResetStackIsEmpty : Prop :=
  State.reset.sp = 0 ∧ ∀ (cfg : Config) (depth : Nat) (entry : Word), (State.launch cfg depth entry).sp = 0

/-- The reset state, with any parameters, meets the invariant. It rests on two choices of the model: the canonical reset values
(log entry 2: memory with nothing listed) and the canonical form of memory in `State.Inv` (log entry 20). -/
def Obligations.ResetMeetsTheInvariant : Prop :=
  State.reset.Inv ∧ ∀ (cfg : Config) (depth : Nat) (entry : Word), (State.launch cfg depth entry).Inv

/-- The canonical reset values, which the source does not state and the spec chooses (decisions D26, D27; log entry 2). -/
def Obligations.CanonicalResetValues : Prop :=
  ∀ (cfg : Config) (depth : Nat) (entry : Word), let s := State.launch cfg depth entry
    (∀ x, s.getV x = 0) ∧ s.pc = entry ∧ s.stackDepth = depth ∧ (∀ k, s.stack.getD k 0 = 0) ∧ s.index = 0 ∧ s.dt = 0 ∧
    s.st = 0 ∧ (∀ k, s.cell k = false) ∧ (∀ k, s.key k = false) ∧ (∀ a, s.byteAt a = 0) ∧ s.cfg = cfg

/-- Every step keeps the invariant: memory within MEM_SIZE, sp within 0..STACK_DEPTH, and memory in canonical form, which is
the model's own choice of how to hold it (log entry 20, DESIGN CHOICE) and no rule of the spec. -/
def Obligations.StepKeepsTheInvariant : Prop :=
  ∀ s t : State, s.Inv → step s = .next t → t.Inv

/-- Every run keeps the invariant, whatever host steps come between its core steps. Its clause that memory is in canonical form
is the model's own choice (log entry 20, DESIGN CHOICE) and no rule of the spec. -/
def Obligations.ScheduledRunKeepsTheInvariant : Prop :=
  ∀ (as : List Action) (s t : State), s.Inv → runSchedule as s = .next t → t.Inv

/-- No step writes the parameters, the depth of the stack or the key state. -/
def Obligations.StepKeepsParametersAndKeys : Prop :=
  ∀ s t : State, step s = .next t → t.cfg = s.cfg ∧ t.stackDepth = s.stackDepth ∧ ∀ k, t.key k = s.key k

/-- After boot the image stands in memory from ENTRY upward, pc = ENTRY, sp = 0, the invariant holds, and where the font lies
wholly below or wholly above the image, within memory, every glyph stands at FONT_BASE + 5d. The invariant's clause that memory
is in canonical form is the model's own choice (log entry 20, DESIGN CHOICE), and boot starts from the canonical reset values
(log entry 2). -/
def Obligations.BootLoadsImageAndFont : Prop :=
  ∀ (cfg : Config) (depth : Nat) (entry : Word) (image : List Byte), entry.toNat + image.length ≤ cfg.memSize →
    let s := boot cfg depth entry image
    s.Inv ∧ s.pc = entry ∧ s.sp = 0 ∧
    (∀ k, k < image.length → s.byteAt (entry.toNat + k) = image.getD k 0) ∧
    (cfg.fontBase + 80 ≤ entry.toNat ∨ (entry.toNat + image.length ≤ cfg.fontBase ∧ cfg.fontBase + 80 ≤ cfg.memSize) →
      s.HoldsFont)

/-! ### Who writes what -/

/-- Only 2NNN writes the stack, and only its slot sp; sp goes up by 1 only by 2NNN and down by 1 only by 00EE. -/
def Obligations.OnlyCallAndReturnMoveTheStack : Prop :=
  ∀ (i : Instr) (s t : State), exec i s = .next t →
    (t.stack = s.stack ∨ ((∃ nnn, i = .callAddr nnn) ∧ ∀ k, k ≠ s.sp → t.stack.getD k 0 = s.stack.getD k 0)) ∧
    (t.sp = s.sp ∨ ((∃ nnn, i = .callAddr nnn) ∧ t.sp = s.sp + 1) ∨ (i = .ret ∧ t.sp + 1 = s.sp))

/-- Only 00E0 and DXYN write the display, only FX15 writes DT and only FX18 writes ST. -/
def Obligations.OnlyListedInstructionsWriteDisplayAndTimers : Prop :=
  ∀ (i : Instr) (s t : State), exec i s = .next t →
    ((∃ k, t.cell k ≠ s.cell k) → i = .cls ∨ ∃ x y n, i = .drwVxVyNibble x y n) ∧
    (t.dt ≠ s.dt → ∃ x, i = .ldDtVx x) ∧ (t.st ≠ s.st → ∃ x, i = .ldStVx x)

/-- Only ANNN, FX1E and FX29 write I, and FX55 and FX65 when LDST_INC_I. -/
def Obligations.OnlyListedInstructionsWriteIndex : Prop :=
  ∀ (i : Instr) (s t : State), exec i s = .next t → t.index ≠ s.index →
    (∃ nnn, i = .ldIAddr nnn) ∨ (∃ x, i = .addIVx x ∨ i = .ldFVx x) ∨
    (s.cfg.ldstIncI = true ∧ ∃ x, i = .ldMemVx x ∨ i = .ldVxMem x)

/-- Only FX33 and FX55 write memory, FX33 within the 3 bytes from I and FX55 within the X+1 bytes from I, all below
MEM_SIZE. -/
def Obligations.OnlyStoresWriteMemory : Prop :=
  ∀ (i : Instr) (s t : State) (a : Nat), exec i s = .next t → t.byteAt a ≠ s.byteAt a →
    ∃ n, s.index.toNat ≤ a ∧ a < s.index.toNat + n ∧ s.index.toNat + n ≤ s.cfg.memSize ∧
      ((n = 3 ∧ ∃ x, i = .ldBVx x) ∨ ∃ x, n = x.val + 1 ∧ i = .ldMemVx x)

/-- Which instructions write a general register: V[X] by 6XNN, 7XNN, 8XY0 to 8XY7, 8XYE, CXNN, FX07 and FX0A, V[0] to V[X] by
FX65, and VF by 8XY4 to 8XY7, 8XYE and DXYN. -/
def Obligations.OnlyListedInstructionsWriteRegisters : Prop :=
  ∀ (i : Instr) (s t : State) (j : RegIx), exec i s = .next t → t.getV j ≠ s.getV j →
    (∃ nn, i = .ldVxByte j nn ∨ i = .addVxByte j nn ∨ i = .rndVxByte j nn) ∨
    (∃ y, i = .ldVxVy j y ∨ i = .orVxVy j y ∨ i = .andVxVy j y ∨ i = .xorVxVy j y ∨ i = .addVxVy j y ∨
      i = .subVxVy j y ∨ i = .shrVxVy j y ∨ i = .subnVxVy j y ∨ i = .shlVxVy j y) ∨
    i = .ldVxDt j ∨ i = .ldVxK j ∨ (∃ x, j ≤ x ∧ i = .ldVxMem x) ∨
    (j = 15 ∧ ∃ x y, i = .addVxVy x y ∨ i = .subVxVy x y ∨ i = .shrVxVy x y ∨ i = .subnVxVy x y ∨ i = .shlVxVy x y ∨
      ∃ n, i = .drwVxVyNibble x y n)

/-- Every instruction that completes leaves pc in one of four ways: normal, skip taken, set to its target, or unchanged (FX0A
with no key pressed alone). -/
def Obligations.EachInstructionLeavesPcInOneOfFourWays : Prop :=
  ∀ (i : Instr) (s t : State), exec i s = .next t →
    t.pc.toNat = (s.pc.toNat + 2) % 65536 ∨
    (t.pc.toNat = (s.pc.toNat + 4) % 65536 ∧
      ((∃ x nn, i = .seVxByte x nn ∨ i = .sneVxByte x nn) ∨ (∃ x y, i = .seVxVy x y ∨ i = .sneVxVy x y) ∨
        ∃ x, i = .skpVx x ∨ i = .sknpVx x)) ∨
    (∃ nnn, (i = .jpAddr nnn ∨ i = .callAddr nnn) ∧ t.pc.toNat = nnn.toNat) ∨
    (∃ nnn, i = .jpV0Addr nnn ∧ t.pc.toNat = nnn.toNat + (s.getV 0).toNat) ∨
    (i = .ret ∧ t.pc = s.stack.getD (s.sp - 1) 0) ∨
    (t.pc = s.pc ∧ (∃ x, i = .ldVxK x) ∧ ∀ k, s.key k = false)

/-! ### Family 0, jumps and calls -/

/-- R100: SYS always raises UnsupportedInstruction with its opcode; the caller gets code 1 and the state unchanged. -/
def Obligations.SysRaisesUnsupported : Prop :=
  ∀ (nnn : Addr) (s : State),
    exec (.sys nnn) s = .fault (.unsupportedInstruction (wordNNN 0x0 nnn)) ∧
    (nnn ≠ 0x0E0 → nnn ≠ 0x0EE → SourceTier (wordNNN 0x0 nnn) (.sys nnn) ∧
      (s.sp ≤ s.stackDepth → transact (wordNNN 0x0 nnn) s = .err ⟨1, none, nnn.toNat⟩ s))

/-- R101: CLS makes every display cell 0, whatever stood there, and changes nothing else but pc. -/
def Obligations.ClsClearsEveryCell : Prop :=
  ∀ s : State, SourceTier 0x00E0 .cls ∧
    ∃ t, exec .cls s = .next t ∧ (∀ k, t.cell k = false) ∧ t.pc = s.pc + 2 ∧ Frame [] [.disp] s t

/-- R102: RET takes pc from the slot below sp exactly, with no +2, lowers sp by 1 and keeps every slot; with sp = 0 it raises
StackUnderflow and changes no state. -/
def Obligations.RetPopsExactly : Prop :=
  ∀ s : State, SourceTier 0x00EE .ret ∧
    (0 < s.sp → s.sp ≤ s.stackDepth →
      ∃ t, exec .ret s = .next t ∧ t.sp + 1 = s.sp ∧ t.pc = s.stack.getD (s.sp - 1) 0 ∧ Frame [] [.sp] s t) ∧
    (s.sp = 0 → exec .ret s = .fault (.stackViolation .underflow 0x00EE) ∧ transact 0x00EE s = .err ⟨3, some 2, 0xEE⟩ s)

/-- R110: JP sets pc to exactly NNN. -/
def Obligations.JumpSetsPc : Prop :=
  ∀ (nnn : Addr) (s : State), SourceTier (wordNNN 0x1 nnn) (.jpAddr nnn) ∧
    ∃ t, exec (.jpAddr nnn) s = .next t ∧ t.pc.toNat = nnn.toNat ∧ Frame [] [] s t

/-- R111: CALL pushes its own address at slot sp, raises sp by 1 and sets pc to NNN, and a RET at once brings pc and sp back;
with sp = STACK_DEPTH it raises StackOverflow and changes no state. -/
def Obligations.CallPushesItsOwnAddress : Prop :=
  ∀ (nnn : Addr) (s : State), SourceTier (wordNNN 0x2 nnn) (.callAddr nnn) ∧
    (s.sp < s.stackDepth →
      ∃ t, exec (.callAddr nnn) s = .next t ∧ t.stack.getD s.sp 0 = s.pc ∧
        (∀ k, k ≠ s.sp → t.stack.getD k 0 = s.stack.getD k 0) ∧ t.stackDepth = s.stackDepth ∧ t.sp = s.sp + 1 ∧
        t.pc.toNat = nnn.toNat ∧ Frame [] [.stack, .sp] s t ∧
        ∃ u, exec .ret t = .next u ∧ u.pc = s.pc ∧ u.sp = s.sp) ∧
    (s.sp = s.stackDepth →
      exec (.callAddr nnn) s = .fault (.stackViolation .overflow (wordNNN 0x2 nnn)) ∧
      transact (wordNNN 0x2 nnn) s = .err ⟨3, some 1, 0x2000 + nnn.toNat⟩ s)

/-- Return is the exact left-inverse of call: it restores pc and sp, at any target and any depth below capacity, and only the
slot pushed differs. -/
def Obligations.ReturnInvertsCall : Prop :=
  ∀ (nnn : Addr) (s : State), s.sp < s.stackDepth →
    ∃ t u, exec (.callAddr nnn) s = .next t ∧ exec .ret t = .next u ∧ u.pc = s.pc ∧ u.sp = s.sp ∧
      (∀ k, k ≠ s.sp → u.stack.getD k 0 = s.stack.getD k 0) ∧ Frame [] [.stack] s u

/-- A subroutine that is a RET alone: the call and the return bring the core back to the CALL, which it fetches and runs again,
with sp unchanged. -/
def Obligations.ReturnRunsTheCallAgain : Prop :=
  ∀ (s : State) (nnn : Addr), s.sp < s.stackDepth → s.pc.toNat + 1 < s.cfg.memSize → nnn.toNat + 1 < s.cfg.memSize →
    joinBytes (s.byteAt s.pc.toNat) (s.byteAt (s.pc.toNat + 1)) = wordNNN 0x2 nnn →
    joinBytes (s.byteAt nnn.toNat) (s.byteAt (nnn.toNat + 1)) = 0x00EE →
    ∃ t u, step s = .next t ∧ step t = .next u ∧ u.pc = s.pc ∧ u.sp = s.sp ∧ u.fetch = s.fetch ∧ step u = .next t

/-- R112: JP V0 sets pc to NNN + V0, which never wraps; the offset register is V0 whatever X is. -/
def Obligations.JumpOffsetAddsV0 : Prop :=
  ∀ (nnn : Addr) (s : State), GkTier (wordNNN 0xB nnn) (.jpV0Addr nnn) ∧
    ∃ t, exec (.jpV0Addr nnn) s = .next t ∧ t.pc.toNat = nnn.toNat + (s.getV 0).toNat ∧ t.pc.toNat ≤ 0x10FE ∧
      Frame [] [] s t

/-- In a state whose pc addresses a jump to itself every step leaves the state unchanged: the run has ended. -/
def Obligations.SelfJumpEndsTheRun : Prop :=
  ∀ s : State, s.sp ≤ s.stackDepth → s.finished = true → step s = .next s

/-! ### Skips -/

/-- R120, R121: SE and SNE with an immediate advance pc by 4 when V[X] equals (differs from) NN and by 2 otherwise. -/
def Obligations.SkipOnImmediate : Prop :=
  ∀ (x : RegIx) (nn : Byte) (s : State),
    SourceTier (wordXNN 0x3 x nn) (.seVxByte x nn) ∧ SourceTier (wordXNN 0x4 x nn) (.sneVxByte x nn) ∧
    (∃ t, exec (.seVxByte x nn) s = .next t ∧ t.pc = (if s.getV x = nn then s.pc + 4 else s.pc + 2) ∧ Frame [] [] s t) ∧
    (∃ t, exec (.sneVxByte x nn) s = .next t ∧ t.pc = (if s.getV x ≠ nn then s.pc + 4 else s.pc + 2) ∧ Frame [] [] s t)

/-- R122, R123: SE and SNE with two registers advance pc by 4 when V[X] equals (differs from) V[Y] and by 2 otherwise; with a
low nibble other than 0 neither opcode decodes. -/
def Obligations.SkipOnRegisters : Prop :=
  ∀ (x y : RegIx) (s : State),
    SourceTier (wordXYN 0x5 x y 0) (.seVxVy x y) ∧ GkTier (wordXYN 0x9 x y 0) (.sneVxVy x y) ∧
    (∀ (n : Nibble) (gk : Bool), n ≠ 0 → decodeOp gk (wordXYN 0x5 x y n) = .error (.unmapped (wordXYN 0x5 x y n)) ∧
      decodeOp gk (wordXYN 0x9 x y n) = .error (.unmapped (wordXYN 0x9 x y n))) ∧
    (∃ t, exec (.seVxVy x y) s = .next t ∧ t.pc = (if s.getV x = s.getV y then s.pc + 4 else s.pc + 2) ∧
      Frame [] [] s t) ∧
    (∃ t, exec (.sneVxVy x y) s = .next t ∧ t.pc = (if s.getV x ≠ s.getV y then s.pc + 4 else s.pc + 2) ∧
      Frame [] [] s t)

/-- R124, R125: SKP and SKNP skip when the key numbered V[X] is pressed (not pressed); with V[X] > 15 they raise
OutOfRange(V[X]) and change no state. -/
def Obligations.SkipOnKeyState : Prop :=
  ∀ (x : RegIx) (s : State),
    GkTier (wordXNN 0xE x 0x9E) (.skpVx x) ∧ GkTier (wordXNN 0xE x 0xA1) (.sknpVx x) ∧
    (∀ k : RegIx, (s.getV x).toNat = k.val →
      (∃ t, exec (.skpVx x) s = .next t ∧ t.pc = (if s.key k = true then s.pc + 4 else s.pc + 2) ∧ Frame [] [] s t) ∧
      (∃ t, exec (.sknpVx x) s = .next t ∧ t.pc = (if s.key k = false then s.pc + 4 else s.pc + 2) ∧ Frame [] [] s t)) ∧
    (15 < (s.getV x).toNat →
      exec (.skpVx x) s = .fault (.outOfRange (s.getV x).toNat) ∧
      exec (.sknpVx x) s = .fault (.outOfRange (s.getV x).toNat) ∧
      (s.cfg.gkOpcodes = true → s.sp ≤ s.stackDepth →
        transact (wordXNN 0xE x 0x9E) s = .err ⟨4, none, (s.getV x).toNat⟩ s ∧
        transact (wordXNN 0xE x 0xA1) s = .err ⟨4, none, (s.getV x).toNat⟩ s))

/-! ### Immediate load and add, and the register ALU -/

/-- R130: LD Vx, byte loads NN. -/
def Obligations.LoadImmediate : Prop :=
  ∀ (x : RegIx) (nn : Byte) (s : State), SourceTier (wordXNN 0x6 x nn) (.ldVxByte x nn) ∧
    ∃ t, exec (.ldVxByte x nn) s = .next t ∧ t.getV x = nn ∧ t.pc = s.pc + 2 ∧ Frame [x] [] s t

/-- R131: ADD Vx, byte adds modulo 2^8; no other register changes, VF among them unless X = F. -/
def Obligations.AddImmediateWraps : Prop :=
  ∀ (x : RegIx) (nn : Byte) (s : State), SourceTier (wordXNN 0x7 x nn) (.addVxByte x nn) ∧
    ∃ t, exec (.addVxByte x nn) s = .next t ∧ (t.getV x).toNat = ((s.getV x).toNat + nn.toNat) % 256 ∧
      t.pc = s.pc + 2 ∧ Frame [x] [] s t

/-- R140: LD Vx, Vy copies V[Y], which is left unmodified. -/
def Obligations.CopyRegister : Prop :=
  ∀ (x y : RegIx) (s : State), SourceTier (wordXYN 0x8 x y 0x0) (.ldVxVy x y) ∧
    ∃ t, exec (.ldVxVy x y) s = .next t ∧ t.getV x = s.getV y ∧ t.getV y = s.getV y ∧ t.pc = s.pc + 2 ∧ Frame [x] [] s t

/-- R141, R142, R143: OR, AND and XOR compute V[X] bit by bit from V[X] and V[Y] and write nothing else but pc; VF changes
only when X = F. -/
def Obligations.BitwiseOperations : Prop :=
  ∀ (x y : RegIx) (s : State),
    SourceTier (wordXYN 0x8 x y 0x1) (.orVxVy x y) ∧ SourceTier (wordXYN 0x8 x y 0x2) (.andVxVy x y) ∧
    SourceTier (wordXYN 0x8 x y 0x3) (.xorVxVy x y) ∧
    (∃ t, exec (.orVxVy x y) s = .next t ∧ t.pc = s.pc + 2 ∧ Frame [x] [] s t ∧
      ∀ k, (t.getV x).getLsbD k = ((s.getV x).getLsbD k || (s.getV y).getLsbD k)) ∧
    (∃ t, exec (.andVxVy x y) s = .next t ∧ t.pc = s.pc + 2 ∧ Frame [x] [] s t ∧
      ∀ k, (t.getV x).getLsbD k = ((s.getV x).getLsbD k && (s.getV y).getLsbD k)) ∧
    (∃ t, exec (.xorVxVy x y) s = .next t ∧ t.pc = s.pc + 2 ∧ Frame [x] [] s t ∧
      ∀ k, (t.getV x).getLsbD k = ((s.getV x).getLsbD k ^^ (s.getV y).getLsbD k))

/-- R144: ADD Vx, Vy leaves the sum modulo 2^8 in V[X] and then the carry out of bit 7 in VF, which is what stays when
X = F. -/
def Obligations.AddWithCarry : Prop :=
  ∀ (x y : RegIx) (s : State), SourceTier (wordXYN 0x8 x y 0x4) (.addVxVy x y) ∧
    ∃ t, exec (.addVxVy x y) s = .next t ∧
      (x ≠ 15 → (t.getV x).toNat = ((s.getV x).toNat + (s.getV y).toNat) % 256) ∧
      (t.getV 15).toNat = ((s.getV x).toNat + (s.getV y).toNat) / 256 ∧
      t.pc = s.pc + 2 ∧ Frame [x, 15] [] s t

/-- R145, R147: SUB leaves VX − VY and SUBN leaves VY − VX modulo 2^8 in V[X] and then 1 in VF when no borrow occurs, else 0;
the flag is what stays when X = F. -/
def Obligations.SubtractWithBorrow : Prop :=
  ∀ (x y : RegIx) (s : State),
    SourceTier (wordXYN 0x8 x y 0x5) (.subVxVy x y) ∧ SourceTier (wordXYN 0x8 x y 0x7) (.subnVxVy x y) ∧
    (∃ t, exec (.subVxVy x y) s = .next t ∧
      (x ≠ 15 → (t.getV x).toNat = ((s.getV x).toNat + 256 - (s.getV y).toNat) % 256) ∧
      t.getV 15 = (if (s.getV y).toNat ≤ (s.getV x).toNat then 1 else 0) ∧ t.pc = s.pc + 2 ∧ Frame [x, 15] [] s t) ∧
    (∃ t, exec (.subnVxVy x y) s = .next t ∧
      (x ≠ 15 → (t.getV x).toNat = ((s.getV y).toNat + 256 - (s.getV x).toNat) % 256) ∧
      t.getV 15 = (if (s.getV x).toNat ≤ (s.getV y).toNat then 1 else 0) ∧ t.pc = s.pc + 2 ∧ Frame [x, 15] [] s t)

/-- R146, R148: SHR and SHL shift VX or VY, as SHIFT_SRC says, by one bit into V[X] and then leave the bit shifted out in VF,
which is what stays when X = F. -/
def Obligations.ShiftOneBit : Prop :=
  ∀ (x y : RegIx) (s : State),
    SourceTier (wordXYN 0x8 x y 0x6) (.shrVxVy x y) ∧ SourceTier (wordXYN 0x8 x y 0xE) (.shlVxVy x y) ∧
    ∀ src : Byte, src = (if s.cfg.shiftSrc = .vx then s.getV x else s.getV y) →
      (∃ t, exec (.shrVxVy x y) s = .next t ∧ (x ≠ 15 → (t.getV x).toNat = src.toNat / 2) ∧
        (t.getV 15).toNat = src.toNat % 2 ∧ t.pc = s.pc + 2 ∧ Frame [x, 15] [] s t) ∧
      (∃ t, exec (.shlVxVy x y) s = .next t ∧ (x ≠ 15 → (t.getV x).toNat = src.toNat * 2 % 256) ∧
        (t.getV 15).toNat = src.toNat / 128 ∧ t.pc = s.pc + 2 ∧ Frame [x, 15] [] s t)

/-! ### Index register and memory -/

/-- R160: LD I sets I to NNN. -/
def Obligations.LoadIndex : Prop :=
  ∀ (nnn : Addr) (s : State), GkTier (wordNNN 0xA nnn) (.ldIAddr nnn) ∧
    ∃ t, exec (.ldIAddr nnn) s = .next t ∧ t.index.toNat = nnn.toNat ∧ t.pc = s.pc + 2 ∧ Frame [] [.index] s t

/-- R161: ADD I adds V[X] modulo 2^16 and writes no flag. -/
def Obligations.AddIndexWraps : Prop :=
  ∀ (x : RegIx) (s : State), GkTier (wordXNN 0xF x 0x1E) (.addIVx x) ∧
    ∃ t, exec (.addIVx x) s = .next t ∧ t.index.toNat = (s.index.toNat + (s.getV x).toNat) % 65536 ∧
      t.pc = s.pc + 2 ∧ Frame [] [.index] s t

/-- R162: LD F points I at FONT_BASE + 5 times the low nibble of V[X], modulo 2^16. -/
def Obligations.GlyphPointer : Prop :=
  ∀ (x : RegIx) (s : State), GkTier (wordXNN 0xF x 0x29) (.ldFVx x) ∧
    ∃ t, exec (.ldFVx x) s = .next t ∧ t.index.toNat = (s.cfg.fontBase + 5 * ((s.getV x).toNat % 16)) % 65536 ∧
      t.pc = s.pc + 2 ∧ Frame [] [.index] s t

/-- R163: LD B stores the decimal digits of V[X], most significant first, at I, I+1, I+2 and nothing else; if one of them lies
at or above MEM_SIZE it raises OutOfRange(max(I, MEM_SIZE)) before any write. -/
def Obligations.StoreDecimalDigits : Prop :=
  ∀ (x : RegIx) (s : State), GkTier (wordXNN 0xF x 0x33) (.ldBVx x) ∧
    (s.index.toNat + 2 < s.cfg.memSize →
      ∃ t, exec (.ldBVx x) s = .next t ∧
        (t.byteAt s.index.toNat).toNat = (s.getV x).toNat / 100 ∧
        (t.byteAt (s.index.toNat + 1)).toNat = (s.getV x).toNat / 10 % 10 ∧
        (t.byteAt (s.index.toNat + 2)).toNat = (s.getV x).toNat % 10 ∧
        KeptOutside s.index.toNat 3 s t ∧ t.pc = s.pc + 2 ∧ Frame [] [.mem] s t) ∧
    (s.cfg.memSize ≤ s.index.toNat + 2 →
      exec (.ldBVx x) s = .fault (.outOfRange (max s.index.toNat s.cfg.memSize)) ∧
      (s.cfg.gkOpcodes = true → s.sp ≤ s.stackDepth →
        transact (wordXNN 0xF x 0x33) s = .err ⟨4, none, max s.index.toNat s.cfg.memSize⟩ s))

/-- R164: LD [I], Vx stores V[0] to V[X] at I to I+X and nothing else, and advances I by X+1 modulo 2^16 only when LDST_INC_I; if
an address lies at or above MEM_SIZE it raises OutOfRange(max(I, MEM_SIZE)) before any write. -/
def Obligations.StoreRegisters : Prop :=
  ∀ (x : RegIx) (s : State), GkTier (wordXNN 0xF x 0x55) (.ldMemVx x) ∧
    (s.index.toNat + x.val < s.cfg.memSize →
      ∃ t, exec (.ldMemVx x) s = .next t ∧
        (∀ j : RegIx, j ≤ x → t.byteAt (s.index.toNat + j.val) = s.getV j) ∧ KeptOutside s.index.toNat (x.val + 1) s t ∧
        t.index.toNat = (if s.cfg.ldstIncI = true then (s.index.toNat + x.val + 1) % 65536 else s.index.toNat) ∧
        t.pc = s.pc + 2 ∧ Frame [] [.mem, .index] s t) ∧
    (s.cfg.memSize ≤ s.index.toNat + x.val →
      exec (.ldMemVx x) s = .fault (.outOfRange (max s.index.toNat s.cfg.memSize)) ∧
      (s.cfg.gkOpcodes = true → s.sp ≤ s.stackDepth →
        transact (wordXNN 0xF x 0x55) s = .err ⟨4, none, max s.index.toNat s.cfg.memSize⟩ s))

/-- R165: LD Vx, [I] loads V[0] to V[X] from I to I+X, leaves the registers above X and all of memory, and advances I by X+1
modulo 2^16 only when LDST_INC_I; if an address lies at or above MEM_SIZE it raises OutOfRange(max(I, MEM_SIZE)) before any
register write. -/
def Obligations.LoadRegisters : Prop :=
  ∀ (x : RegIx) (s : State), GkTier (wordXNN 0xF x 0x65) (.ldVxMem x) ∧
    (s.index.toNat + x.val < s.cfg.memSize →
      ∃ t, exec (.ldVxMem x) s = .next t ∧
        (∀ j : RegIx, j ≤ x → t.getV j = s.byteAt (s.index.toNat + j.val)) ∧ (∀ j : RegIx, x < j → t.getV j = s.getV j) ∧
        t.index.toNat = (if s.cfg.ldstIncI = true then (s.index.toNat + x.val + 1) % 65536 else s.index.toNat) ∧
        t.pc = s.pc + 2 ∧ Frame ((List.finRange 16).filter (· ≤ x)) [.index] s t) ∧
    (s.cfg.memSize ≤ s.index.toNat + x.val →
      exec (.ldVxMem x) s = .fault (.outOfRange (max s.index.toNat s.cfg.memSize)) ∧
      (s.cfg.gkOpcodes = true → s.sp ≤ s.stackDepth →
        transact (wordXNN 0xF x 0x65) s = .err ⟨4, none, max s.index.toNat s.cfg.memSize⟩ s))

/-- What FX33 and FX55 store into the next opcode, its first byte, its second or both, is seen by the very next fetch: each byte
fetched is the one stored there, or the one that stood there where nothing was stored. -/
def Obligations.StoredOpcodeIsFetched : Prop :=
  ∀ (x : RegIx) (s t : State), t.pc.toNat + 1 < s.cfg.memSize →
    (exec (.ldMemVx x) s = .next t →
      ∃ hi lo : Byte, t.fetch = some (hi ++ lo) ∧
        ∀ a b, (a = t.pc.toNat ∧ b = hi) ∨ (a = t.pc.toNat + 1 ∧ b = lo) →
          (∀ j : RegIx, j ≤ x → a = s.index.toNat + j.val → b = s.getV j) ∧
          (a < s.index.toNat ∨ s.index.toNat + x.val < a → b = s.byteAt a)) ∧
    (exec (.ldBVx x) s = .next t →
      ∃ hi lo : Byte, t.fetch = some (hi ++ lo) ∧
        ∀ a b, (a = t.pc.toNat ∧ b = hi) ∨ (a = t.pc.toNat + 1 ∧ b = lo) →
          (a = s.index.toNat → b.toNat = (s.getV x).toNat / 100) ∧
          (a = s.index.toNat + 1 → b.toNat = (s.getV x).toNat / 10 % 10) ∧
          (a = s.index.toNat + 2 → b.toNat = (s.getV x).toNat % 10) ∧
          (a < s.index.toNat ∨ s.index.toNat + 2 < a → b = s.byteAt a))

/-! ### Random, timers and keys -/

/-- RND leaves the oracle's byte masked by NN in V[X]; the byte is a free value, so the claim holds whatever it is, and the draw
is used up. The counter `draws` that selects the byte is the model's own field (log entry 3, DESIGN CHOICE). -/
def Obligations.RandomByteIsMasked : Prop :=
  ∀ (x : RegIx) (nn : Byte) (s : State), GkTier (wordXNN 0xC x nn) (.rndVxByte x nn) ∧
    ∃ t, exec (.rndVxByte x nn) s = .next t ∧ t.getV x = Config.randomByte s.draws &&& nn ∧
      (∀ k, nn.getLsbD k = false → (t.getV x).getLsbD k = false) ∧ t.draws = s.draws + 1 ∧
      t.pc = s.pc + 2 ∧ Frame [x] [.draws] s t

/-- R181: LD Vx, DT reads the delay timer. -/
def Obligations.ReadDelayTimer : Prop :=
  ∀ (x : RegIx) (s : State), GkTier (wordXNN 0xF x 0x07) (.ldVxDt x) ∧
    ∃ t, exec (.ldVxDt x) s = .next t ∧ t.getV x = s.dt ∧ t.pc = s.pc + 2 ∧ Frame [x] [] s t

/-- R182: LD Vx, K stores the number of the lowest pressed key; with no key pressed the state does not change at all, so the
next step dispatches it again. -/
def Obligations.KeyWaitTakesLowestKey : Prop :=
  ∀ (x : RegIx) (s : State), GkTier (wordXNN 0xF x 0x0A) (.ldVxK x) ∧
    (∀ k : RegIx, s.key k = true → (∀ j, j < k → s.key j = false) →
      ∃ t, exec (.ldVxK x) s = .next t ∧ (t.getV x).toNat = k.val ∧ t.pc = s.pc + 2 ∧ Frame [x] [] s t) ∧
    ((∀ k, s.key k = false) → exec (.ldVxK x) s = .next s)

/-- R183, R184: LD DT and LD ST set the delay and the sound timer to V[X]. -/
def Obligations.SetTimers : Prop :=
  ∀ (x : RegIx) (s : State),
    GkTier (wordXNN 0xF x 0x15) (.ldDtVx x) ∧ GkTier (wordXNN 0xF x 0x18) (.ldStVx x) ∧
    (∃ t, exec (.ldDtVx x) s = .next t ∧ t.dt = s.getV x ∧ t.pc = s.pc + 2 ∧ Frame [] [.dt] s t) ∧
    (∃ t, exec (.ldStVx x) s = .next t ∧ t.st = s.getV x ∧ t.pc = s.pc + 2 ∧ Frame [] [.st] s t)

/-! ### Draw -/

/-- R190: DRW flips exactly the cells its sprite covers (start reduced modulo the display, edges wrapped or clipped as DRAW_EDGE
says), leaves 1 in VF when a covered cell went from 1 to 0 and else 0, and changes nothing else but pc; a sprite byte at or
above MEM_SIZE raises OutOfRange(max(I, MEM_SIZE)) before any write. -/
def Obligations.DrawFlipsTheSpriteCells : Prop :=
  ∀ (x y : RegIx) (n : Nibble) (s : State), GkTier (wordXYN 0xD x y n) (.drwVxVyNibble x y n) ∧
    ∀ covered : Nat → Nat → Bool,
      covered = spriteCovers s.cfg.drawEdge ((s.getV x).toNat % 64) ((s.getV y).toNat % 32) n.toNat
        (fun r => s.byteAt (s.index.toNat + r)) →
      ((n = 0 ∨ s.index.toNat + n.toNat ≤ s.cfg.memSize) →
        ∃ t, exec (.drwVxVyNibble x y n) s = .next t ∧
          (∀ px py, px < 64 → py < 32 → t.cell (py * 64 + px) = (s.cell (py * 64 + px) ^^ covered px py)) ∧
          ((∃ px py, px < 64 ∧ py < 32 ∧ covered px py = true ∧ s.cell (py * 64 + px) = true) → t.getV 15 = 1) ∧
          ((∀ px py, px < 64 → py < 32 → covered px py = true → s.cell (py * 64 + px) = false) → t.getV 15 = 0) ∧
          t.pc = s.pc + 2 ∧ Frame [15] [.disp] s t) ∧
      (n ≠ 0 → s.cfg.memSize < s.index.toNat + n.toNat →
        exec (.drwVxVyNibble x y n) s = .fault (.outOfRange (max s.index.toNat s.cfg.memSize)) ∧
        (s.cfg.gkOpcodes = true → s.sp ≤ s.stackDepth →
          transact (wordXYN 0xD x y n) s = .err ⟨4, none, max s.index.toNat s.cfg.memSize⟩ s))

/-! ### Collaborators -/

/-- A tick takes 1 from each timer that is not 0, the keyboard sets one key, the renderer changes nothing; each
leaves everything else, pc included. -/
def Obligations.HostStepEffects : Prop :=
  ∀ s : State,
    (∀ t, t = HostStep.timerTick.apply s →
      t.dt.toNat = s.dt.toNat - 1 ∧ t.st.toNat = s.st.toNat - 1 ∧ t.pc = s.pc ∧ Frame [] [.dt, .st] s t) ∧
    (∀ (k : RegIx) (down : Bool) (t : State), t = (HostStep.keyWrite k down).apply s →
      t.key k = down ∧ (∀ j, j ≠ k → t.key j = s.key j) ∧ t.pc = s.pc ∧ Frame [] [.keys] s t) ∧
    HostStep.render.apply s = s

/-- A timer tick before or after an instruction makes no difference unless it is FX07, FX15 or FX18, and a key write makes none
unless it is EX9E, EXA1 or FX0A: the state section lists no other instruction that reads or writes the timers or the keys. -/
def Obligations.HostStepsCommuteWithOtherInstructions : Prop :=
  ∀ (i : Instr) (s : State),
    ((∀ x, i ≠ .ldVxDt x ∧ i ≠ .ldDtVx x ∧ i ≠ .ldStVx x) →
      exec i s.timerTick = mapNext State.timerTick (exec i s)) ∧
    ((∀ x, i ≠ .skpVx x ∧ i ≠ .sknpVx x ∧ i ≠ .ldVxK x) → ∀ (k : RegIx) (down : Bool),
      exec i (s.setKey k down) = mapNext (fun t => t.setKey k down) (exec i s))

/-- No instruction but CXNN depends on the oracle: the outcome of every other is the same whatever the draw count is, but for the
count itself. The counter `draws` is the model's own field (log entry 3, DESIGN CHOICE); the statement says that nothing but
CXNN reads it, and nothing of whether an oracle repeats itself. -/
def Obligations.OnlyRandomReadsTheOracle : Prop :=
  ∀ (i : Instr) (s : State) (n : Nat), (∀ x nn, i ≠ .rndVxByte x nn) →
    exec i { s with draws := n } = mapNext (fun t => { t with draws := n }) (exec i s)

/-- Loading the font, in any state whose memory has room for it, puts it at FONT_BASE; and in every state that holds the font
there FX29 completes and points I at the five bytes of the glyph of V[X]'s low nibble. -/
def Obligations.GlyphPointerFindsTheGlyph : Prop :=
  (∀ s : State, s.cfg.fontBase + 80 ≤ s.cfg.memSize → s.loadFont.HoldsFont) ∧
  ∀ (s : State) (x d : RegIx), s.HoldsFont → s.cfg.fontBase + 80 ≤ 65536 → d.val = (s.getV x).toNat % 16 →
    ∃ t, exec (.ldFVx x) s = .next t ∧ ∀ k, k < 5 → t.byteAt (t.index.toNat + k) = (glyph d).getD k 0
end

