-- ==== Sys2Proof/Laws/State.lean ====
section
/-!
SUPPORT. One lemma per field per update of the state, so that no proof unfolds a record update, and the same for the
accessors.
-/

namespace Sys2Proof.Machine

section fields
variable (s : State)


/-! ### setV -/

@[simp] theorem State.setV_v (x : RegIx) (b : Byte) : (s.setV x b).v = s.v.set x b := rfl
@[simp] theorem State.setV_pc (x : RegIx) (b : Byte) : (s.setV x b).pc = s.pc := rfl
@[simp] theorem State.setV_stack (x : RegIx) (b : Byte) : (s.setV x b).stack = s.stack := rfl
@[simp] theorem State.setV_sp (x : RegIx) (b : Byte) : (s.setV x b).sp = s.sp := rfl
@[simp] theorem State.setV_index (x : RegIx) (b : Byte) : (s.setV x b).index = s.index := rfl
@[simp] theorem State.setV_disp (x : RegIx) (b : Byte) : (s.setV x b).disp = s.disp := rfl
@[simp] theorem State.setV_dt (x : RegIx) (b : Byte) : (s.setV x b).dt = s.dt := rfl
@[simp] theorem State.setV_st (x : RegIx) (b : Byte) : (s.setV x b).st = s.st := rfl
@[simp] theorem State.setV_keys (x : RegIx) (b : Byte) : (s.setV x b).keys = s.keys := rfl
@[simp] theorem State.setV_mem (x : RegIx) (b : Byte) : (s.setV x b).mem = s.mem := rfl
@[simp] theorem State.setV_cfg (x : RegIx) (b : Byte) : (s.setV x b).cfg = s.cfg := rfl
@[simp] theorem State.setV_draws (x : RegIx) (b : Byte) : (s.setV x b).draws = s.draws := rfl

/-! ### setAllV -/

@[simp] theorem State.setAllV_v (f : RegIx → Byte) : (s.setAllV f).v = Vector.ofFn f := rfl
@[simp] theorem State.setAllV_pc (f : RegIx → Byte) : (s.setAllV f).pc = s.pc := rfl
@[simp] theorem State.setAllV_stack (f : RegIx → Byte) : (s.setAllV f).stack = s.stack := rfl
@[simp] theorem State.setAllV_sp (f : RegIx → Byte) : (s.setAllV f).sp = s.sp := rfl
@[simp] theorem State.setAllV_index (f : RegIx → Byte) : (s.setAllV f).index = s.index := rfl
@[simp] theorem State.setAllV_disp (f : RegIx → Byte) : (s.setAllV f).disp = s.disp := rfl
@[simp] theorem State.setAllV_dt (f : RegIx → Byte) : (s.setAllV f).dt = s.dt := rfl
@[simp] theorem State.setAllV_st (f : RegIx → Byte) : (s.setAllV f).st = s.st := rfl
@[simp] theorem State.setAllV_keys (f : RegIx → Byte) : (s.setAllV f).keys = s.keys := rfl
@[simp] theorem State.setAllV_mem (f : RegIx → Byte) : (s.setAllV f).mem = s.mem := rfl
@[simp] theorem State.setAllV_cfg (f : RegIx → Byte) : (s.setAllV f).cfg = s.cfg := rfl
@[simp] theorem State.setAllV_draws (f : RegIx → Byte) : (s.setAllV f).draws = s.draws := rfl

/-! ### setPc -/

@[simp] theorem State.setPc_v (w : Word) : (s.setPc w).v = s.v := rfl
@[simp] theorem State.setPc_pc (w : Word) : (s.setPc w).pc = w := rfl
@[simp] theorem State.setPc_stack (w : Word) : (s.setPc w).stack = s.stack := rfl
@[simp] theorem State.setPc_sp (w : Word) : (s.setPc w).sp = s.sp := rfl
@[simp] theorem State.setPc_index (w : Word) : (s.setPc w).index = s.index := rfl
@[simp] theorem State.setPc_disp (w : Word) : (s.setPc w).disp = s.disp := rfl
@[simp] theorem State.setPc_dt (w : Word) : (s.setPc w).dt = s.dt := rfl
@[simp] theorem State.setPc_st (w : Word) : (s.setPc w).st = s.st := rfl
@[simp] theorem State.setPc_keys (w : Word) : (s.setPc w).keys = s.keys := rfl
@[simp] theorem State.setPc_mem (w : Word) : (s.setPc w).mem = s.mem := rfl
@[simp] theorem State.setPc_cfg (w : Word) : (s.setPc w).cfg = s.cfg := rfl
@[simp] theorem State.setPc_draws (w : Word) : (s.setPc w).draws = s.draws := rfl

/-! ### advance -/

@[simp] theorem State.advance_v : (s.advance).v = s.v := rfl
@[simp] theorem State.advance_pc : (s.advance).pc = s.pc + 2 := rfl
@[simp] theorem State.advance_stack : (s.advance).stack = s.stack := rfl
@[simp] theorem State.advance_sp : (s.advance).sp = s.sp := rfl
@[simp] theorem State.advance_index : (s.advance).index = s.index := rfl
@[simp] theorem State.advance_disp : (s.advance).disp = s.disp := rfl
@[simp] theorem State.advance_dt : (s.advance).dt = s.dt := rfl
@[simp] theorem State.advance_st : (s.advance).st = s.st := rfl
@[simp] theorem State.advance_keys : (s.advance).keys = s.keys := rfl
@[simp] theorem State.advance_mem : (s.advance).mem = s.mem := rfl
@[simp] theorem State.advance_cfg : (s.advance).cfg = s.cfg := rfl
@[simp] theorem State.advance_draws : (s.advance).draws = s.draws := rfl

/-! ### skipIf -/

@[simp] theorem State.skipIf_v (c : Bool) : (s.skipIf c).v = s.v := rfl
@[simp] theorem State.skipIf_pc (c : Bool) : (s.skipIf c).pc = if c then s.pc + 4 else s.pc + 2 := rfl
@[simp] theorem State.skipIf_stack (c : Bool) : (s.skipIf c).stack = s.stack := rfl
@[simp] theorem State.skipIf_sp (c : Bool) : (s.skipIf c).sp = s.sp := rfl
@[simp] theorem State.skipIf_index (c : Bool) : (s.skipIf c).index = s.index := rfl
@[simp] theorem State.skipIf_disp (c : Bool) : (s.skipIf c).disp = s.disp := rfl
@[simp] theorem State.skipIf_dt (c : Bool) : (s.skipIf c).dt = s.dt := rfl
@[simp] theorem State.skipIf_st (c : Bool) : (s.skipIf c).st = s.st := rfl
@[simp] theorem State.skipIf_keys (c : Bool) : (s.skipIf c).keys = s.keys := rfl
@[simp] theorem State.skipIf_mem (c : Bool) : (s.skipIf c).mem = s.mem := rfl
@[simp] theorem State.skipIf_cfg (c : Bool) : (s.skipIf c).cfg = s.cfg := rfl
@[simp] theorem State.skipIf_draws (c : Bool) : (s.skipIf c).draws = s.draws := rfl

/-! ### push -/

@[simp] theorem State.push_v : (s.push).v = s.v := rfl
@[simp] theorem State.push_pc : (s.push).pc = s.pc := rfl
@[simp] theorem State.push_stack : (s.push).stack = s.stack.set s.sp s.pc := rfl
@[simp] theorem State.push_sp : (s.push).sp = s.sp + 1 := rfl
@[simp] theorem State.push_index : (s.push).index = s.index := rfl
@[simp] theorem State.push_disp : (s.push).disp = s.disp := rfl
@[simp] theorem State.push_dt : (s.push).dt = s.dt := rfl
@[simp] theorem State.push_st : (s.push).st = s.st := rfl
@[simp] theorem State.push_keys : (s.push).keys = s.keys := rfl
@[simp] theorem State.push_mem : (s.push).mem = s.mem := rfl
@[simp] theorem State.push_cfg : (s.push).cfg = s.cfg := rfl
@[simp] theorem State.push_draws : (s.push).draws = s.draws := rfl

/-! ### pop -/

@[simp] theorem State.pop_v : (s.pop).v = s.v := rfl
@[simp] theorem State.pop_pc : (s.pop).pc = s.stack.getD (s.sp - 1) 0 := rfl
@[simp] theorem State.pop_stack : (s.pop).stack = s.stack := rfl
@[simp] theorem State.pop_sp : (s.pop).sp = s.sp - 1 := rfl
@[simp] theorem State.pop_index : (s.pop).index = s.index := rfl
@[simp] theorem State.pop_disp : (s.pop).disp = s.disp := rfl
@[simp] theorem State.pop_dt : (s.pop).dt = s.dt := rfl
@[simp] theorem State.pop_st : (s.pop).st = s.st := rfl
@[simp] theorem State.pop_keys : (s.pop).keys = s.keys := rfl
@[simp] theorem State.pop_mem : (s.pop).mem = s.mem := rfl
@[simp] theorem State.pop_cfg : (s.pop).cfg = s.cfg := rfl
@[simp] theorem State.pop_draws : (s.pop).draws = s.draws := rfl

/-! ### setIndex -/

@[simp] theorem State.setIndex_v (w : Word) : (s.setIndex w).v = s.v := rfl
@[simp] theorem State.setIndex_pc (w : Word) : (s.setIndex w).pc = s.pc := rfl
@[simp] theorem State.setIndex_stack (w : Word) : (s.setIndex w).stack = s.stack := rfl
@[simp] theorem State.setIndex_sp (w : Word) : (s.setIndex w).sp = s.sp := rfl
@[simp] theorem State.setIndex_index (w : Word) : (s.setIndex w).index = w := rfl
@[simp] theorem State.setIndex_disp (w : Word) : (s.setIndex w).disp = s.disp := rfl
@[simp] theorem State.setIndex_dt (w : Word) : (s.setIndex w).dt = s.dt := rfl
@[simp] theorem State.setIndex_st (w : Word) : (s.setIndex w).st = s.st := rfl
@[simp] theorem State.setIndex_keys (w : Word) : (s.setIndex w).keys = s.keys := rfl
@[simp] theorem State.setIndex_mem (w : Word) : (s.setIndex w).mem = s.mem := rfl
@[simp] theorem State.setIndex_cfg (w : Word) : (s.setIndex w).cfg = s.cfg := rfl
@[simp] theorem State.setIndex_draws (w : Word) : (s.setIndex w).draws = s.draws := rfl

/-! ### setDt -/

@[simp] theorem State.setDt_v (b : Byte) : (s.setDt b).v = s.v := rfl
@[simp] theorem State.setDt_pc (b : Byte) : (s.setDt b).pc = s.pc := rfl
@[simp] theorem State.setDt_stack (b : Byte) : (s.setDt b).stack = s.stack := rfl
@[simp] theorem State.setDt_sp (b : Byte) : (s.setDt b).sp = s.sp := rfl
@[simp] theorem State.setDt_index (b : Byte) : (s.setDt b).index = s.index := rfl
@[simp] theorem State.setDt_disp (b : Byte) : (s.setDt b).disp = s.disp := rfl
@[simp] theorem State.setDt_dt (b : Byte) : (s.setDt b).dt = b := rfl
@[simp] theorem State.setDt_st (b : Byte) : (s.setDt b).st = s.st := rfl
@[simp] theorem State.setDt_keys (b : Byte) : (s.setDt b).keys = s.keys := rfl
@[simp] theorem State.setDt_mem (b : Byte) : (s.setDt b).mem = s.mem := rfl
@[simp] theorem State.setDt_cfg (b : Byte) : (s.setDt b).cfg = s.cfg := rfl
@[simp] theorem State.setDt_draws (b : Byte) : (s.setDt b).draws = s.draws := rfl

/-! ### setSt -/

@[simp] theorem State.setSt_v (b : Byte) : (s.setSt b).v = s.v := rfl
@[simp] theorem State.setSt_pc (b : Byte) : (s.setSt b).pc = s.pc := rfl
@[simp] theorem State.setSt_stack (b : Byte) : (s.setSt b).stack = s.stack := rfl
@[simp] theorem State.setSt_sp (b : Byte) : (s.setSt b).sp = s.sp := rfl
@[simp] theorem State.setSt_index (b : Byte) : (s.setSt b).index = s.index := rfl
@[simp] theorem State.setSt_disp (b : Byte) : (s.setSt b).disp = s.disp := rfl
@[simp] theorem State.setSt_dt (b : Byte) : (s.setSt b).dt = s.dt := rfl
@[simp] theorem State.setSt_st (b : Byte) : (s.setSt b).st = b := rfl
@[simp] theorem State.setSt_keys (b : Byte) : (s.setSt b).keys = s.keys := rfl
@[simp] theorem State.setSt_mem (b : Byte) : (s.setSt b).mem = s.mem := rfl
@[simp] theorem State.setSt_cfg (b : Byte) : (s.setSt b).cfg = s.cfg := rfl
@[simp] theorem State.setSt_draws (b : Byte) : (s.setSt b).draws = s.draws := rfl

/-! ### setKey -/

@[simp] theorem State.setKey_v (i : RegIx) (d : Bool) : (s.setKey i d).v = s.v := rfl
@[simp] theorem State.setKey_pc (i : RegIx) (d : Bool) : (s.setKey i d).pc = s.pc := rfl
@[simp] theorem State.setKey_stack (i : RegIx) (d : Bool) : (s.setKey i d).stack = s.stack := rfl
@[simp] theorem State.setKey_sp (i : RegIx) (d : Bool) : (s.setKey i d).sp = s.sp := rfl
@[simp] theorem State.setKey_index (i : RegIx) (d : Bool) : (s.setKey i d).index = s.index := rfl
@[simp] theorem State.setKey_disp (i : RegIx) (d : Bool) : (s.setKey i d).disp = s.disp := rfl
@[simp] theorem State.setKey_dt (i : RegIx) (d : Bool) : (s.setKey i d).dt = s.dt := rfl
@[simp] theorem State.setKey_st (i : RegIx) (d : Bool) : (s.setKey i d).st = s.st := rfl
@[simp] theorem State.setKey_keys (i : RegIx) (d : Bool) : (s.setKey i d).keys = s.keys.set i d := rfl
@[simp] theorem State.setKey_mem (i : RegIx) (d : Bool) : (s.setKey i d).mem = s.mem := rfl
@[simp] theorem State.setKey_cfg (i : RegIx) (d : Bool) : (s.setKey i d).cfg = s.cfg := rfl
@[simp] theorem State.setKey_draws (i : RegIx) (d : Bool) : (s.setKey i d).draws = s.draws := rfl

/-! ### setDisp -/

@[simp] theorem State.setDisp_v (d : Display) : (s.setDisp d).v = s.v := rfl
@[simp] theorem State.setDisp_pc (d : Display) : (s.setDisp d).pc = s.pc := rfl
@[simp] theorem State.setDisp_stack (d : Display) : (s.setDisp d).stack = s.stack := rfl
@[simp] theorem State.setDisp_sp (d : Display) : (s.setDisp d).sp = s.sp := rfl
@[simp] theorem State.setDisp_index (d : Display) : (s.setDisp d).index = s.index := rfl
@[simp] theorem State.setDisp_disp (d : Display) : (s.setDisp d).disp = d := rfl
@[simp] theorem State.setDisp_dt (d : Display) : (s.setDisp d).dt = s.dt := rfl
@[simp] theorem State.setDisp_st (d : Display) : (s.setDisp d).st = s.st := rfl
@[simp] theorem State.setDisp_keys (d : Display) : (s.setDisp d).keys = s.keys := rfl
@[simp] theorem State.setDisp_mem (d : Display) : (s.setDisp d).mem = s.mem := rfl
@[simp] theorem State.setDisp_cfg (d : Display) : (s.setDisp d).cfg = s.cfg := rfl
@[simp] theorem State.setDisp_draws (d : Display) : (s.setDisp d).draws = s.draws := rfl

/-! ### setByte -/

@[simp] theorem State.setByte_v (a : Nat) (b : Byte) : (s.setByte a b).v = s.v := rfl
@[simp] theorem State.setByte_pc (a : Nat) (b : Byte) : (s.setByte a b).pc = s.pc := rfl
@[simp] theorem State.setByte_stack (a : Nat) (b : Byte) : (s.setByte a b).stack = s.stack := rfl
@[simp] theorem State.setByte_sp (a : Nat) (b : Byte) : (s.setByte a b).sp = s.sp := rfl
@[simp] theorem State.setByte_index (a : Nat) (b : Byte) : (s.setByte a b).index = s.index := rfl
@[simp] theorem State.setByte_disp (a : Nat) (b : Byte) : (s.setByte a b).disp = s.disp := rfl
@[simp] theorem State.setByte_dt (a : Nat) (b : Byte) : (s.setByte a b).dt = s.dt := rfl
@[simp] theorem State.setByte_st (a : Nat) (b : Byte) : (s.setByte a b).st = s.st := rfl
@[simp] theorem State.setByte_keys (a : Nat) (b : Byte) : (s.setByte a b).keys = s.keys := rfl
@[simp] theorem State.setByte_mem (a : Nat) (b : Byte) : (s.setByte a b).mem = s.mem.write a b := rfl
@[simp] theorem State.setByte_cfg (a : Nat) (b : Byte) : (s.setByte a b).cfg = s.cfg := rfl
@[simp] theorem State.setByte_draws (a : Nat) (b : Byte) : (s.setByte a b).draws = s.draws := rfl

/-! ### countDraw -/

@[simp] theorem State.countDraw_v : (s.countDraw).v = s.v := rfl
@[simp] theorem State.countDraw_pc : (s.countDraw).pc = s.pc := rfl
@[simp] theorem State.countDraw_stack : (s.countDraw).stack = s.stack := rfl
@[simp] theorem State.countDraw_sp : (s.countDraw).sp = s.sp := rfl
@[simp] theorem State.countDraw_index : (s.countDraw).index = s.index := rfl
@[simp] theorem State.countDraw_disp : (s.countDraw).disp = s.disp := rfl
@[simp] theorem State.countDraw_dt : (s.countDraw).dt = s.dt := rfl
@[simp] theorem State.countDraw_st : (s.countDraw).st = s.st := rfl
@[simp] theorem State.countDraw_keys : (s.countDraw).keys = s.keys := rfl
@[simp] theorem State.countDraw_mem : (s.countDraw).mem = s.mem := rfl
@[simp] theorem State.countDraw_cfg : (s.countDraw).cfg = s.cfg := rfl
@[simp] theorem State.countDraw_draws : (s.countDraw).draws = s.draws + 1 := rfl

/-! ### Accessors of parts an update does not write -/

@[simp] theorem State.setV_cell (x : RegIx) (b : Byte) (k : Nat) : (s.setV x b).cell k = s.cell k := rfl
@[simp] theorem State.setV_key (x : RegIx) (b : Byte) (k : RegIx) : (s.setV x b).key k = s.key k := rfl
@[simp] theorem State.setV_byteAt (x : RegIx) (b : Byte) (m : Nat) : (s.setV x b).byteAt m = s.byteAt m := rfl
@[simp] theorem State.setV_stackDepth (x : RegIx) (b : Byte) : (s.setV x b).stackDepth = s.stackDepth := rfl
@[simp] theorem State.setAllV_cell (f : RegIx → Byte) (k : Nat) : (s.setAllV f).cell k = s.cell k := rfl
@[simp] theorem State.setAllV_key (f : RegIx → Byte) (k : RegIx) : (s.setAllV f).key k = s.key k := rfl
@[simp] theorem State.setAllV_byteAt (f : RegIx → Byte) (m : Nat) : (s.setAllV f).byteAt m = s.byteAt m := rfl
@[simp] theorem State.setAllV_stackDepth (f : RegIx → Byte) : (s.setAllV f).stackDepth = s.stackDepth := rfl
@[simp] theorem State.setPc_getV (w : Word) (j : RegIx) : (s.setPc w).getV j = s.getV j := rfl
@[simp] theorem State.setPc_cell (w : Word) (k : Nat) : (s.setPc w).cell k = s.cell k := rfl
@[simp] theorem State.setPc_key (w : Word) (k : RegIx) : (s.setPc w).key k = s.key k := rfl
@[simp] theorem State.setPc_byteAt (w : Word) (m : Nat) : (s.setPc w).byteAt m = s.byteAt m := rfl
@[simp] theorem State.setPc_stackDepth (w : Word) : (s.setPc w).stackDepth = s.stackDepth := rfl
@[simp] theorem State.advance_getV (j : RegIx) : (s.advance).getV j = s.getV j := rfl
@[simp] theorem State.advance_cell (k : Nat) : (s.advance).cell k = s.cell k := rfl
@[simp] theorem State.advance_key (k : RegIx) : (s.advance).key k = s.key k := rfl
@[simp] theorem State.advance_byteAt (m : Nat) : (s.advance).byteAt m = s.byteAt m := rfl
@[simp] theorem State.advance_stackDepth : (s.advance).stackDepth = s.stackDepth := rfl
@[simp] theorem State.skipIf_getV (c : Bool) (j : RegIx) : (s.skipIf c).getV j = s.getV j := rfl
@[simp] theorem State.skipIf_cell (c : Bool) (k : Nat) : (s.skipIf c).cell k = s.cell k := rfl
@[simp] theorem State.skipIf_key (c : Bool) (k : RegIx) : (s.skipIf c).key k = s.key k := rfl
@[simp] theorem State.skipIf_byteAt (c : Bool) (m : Nat) : (s.skipIf c).byteAt m = s.byteAt m := rfl
@[simp] theorem State.skipIf_stackDepth (c : Bool) : (s.skipIf c).stackDepth = s.stackDepth := rfl
@[simp] theorem State.push_getV (j : RegIx) : (s.push).getV j = s.getV j := rfl
@[simp] theorem State.push_cell (k : Nat) : (s.push).cell k = s.cell k := rfl
@[simp] theorem State.push_key (k : RegIx) : (s.push).key k = s.key k := rfl
@[simp] theorem State.push_byteAt (m : Nat) : (s.push).byteAt m = s.byteAt m := rfl
@[simp] theorem State.pop_getV (j : RegIx) : (s.pop).getV j = s.getV j := rfl
@[simp] theorem State.pop_cell (k : Nat) : (s.pop).cell k = s.cell k := rfl
@[simp] theorem State.pop_key (k : RegIx) : (s.pop).key k = s.key k := rfl
@[simp] theorem State.pop_byteAt (m : Nat) : (s.pop).byteAt m = s.byteAt m := rfl
@[simp] theorem State.pop_stackDepth : (s.pop).stackDepth = s.stackDepth := rfl
@[simp] theorem State.setIndex_getV (w : Word) (j : RegIx) : (s.setIndex w).getV j = s.getV j := rfl
@[simp] theorem State.setIndex_cell (w : Word) (k : Nat) : (s.setIndex w).cell k = s.cell k := rfl
@[simp] theorem State.setIndex_key (w : Word) (k : RegIx) : (s.setIndex w).key k = s.key k := rfl
@[simp] theorem State.setIndex_byteAt (w : Word) (m : Nat) : (s.setIndex w).byteAt m = s.byteAt m := rfl
@[simp] theorem State.setIndex_stackDepth (w : Word) : (s.setIndex w).stackDepth = s.stackDepth := rfl
@[simp] theorem State.setDt_getV (b : Byte) (j : RegIx) : (s.setDt b).getV j = s.getV j := rfl
@[simp] theorem State.setDt_cell (b : Byte) (k : Nat) : (s.setDt b).cell k = s.cell k := rfl
@[simp] theorem State.setDt_key (b : Byte) (k : RegIx) : (s.setDt b).key k = s.key k := rfl
@[simp] theorem State.setDt_byteAt (b : Byte) (m : Nat) : (s.setDt b).byteAt m = s.byteAt m := rfl
@[simp] theorem State.setDt_stackDepth (b : Byte) : (s.setDt b).stackDepth = s.stackDepth := rfl
@[simp] theorem State.setSt_getV (b : Byte) (j : RegIx) : (s.setSt b).getV j = s.getV j := rfl
@[simp] theorem State.setSt_cell (b : Byte) (k : Nat) : (s.setSt b).cell k = s.cell k := rfl
@[simp] theorem State.setSt_key (b : Byte) (k : RegIx) : (s.setSt b).key k = s.key k := rfl
@[simp] theorem State.setSt_byteAt (b : Byte) (m : Nat) : (s.setSt b).byteAt m = s.byteAt m := rfl
@[simp] theorem State.setSt_stackDepth (b : Byte) : (s.setSt b).stackDepth = s.stackDepth := rfl
@[simp] theorem State.setKey_getV (k : RegIx) (d : Bool) (j : RegIx) : (s.setKey k d).getV j = s.getV j := rfl
@[simp] theorem State.setKey_cell (i : RegIx) (d : Bool) (k : Nat) : (s.setKey i d).cell k = s.cell k := rfl
@[simp] theorem State.setKey_byteAt (k : RegIx) (d : Bool) (m : Nat) : (s.setKey k d).byteAt m = s.byteAt m := rfl
@[simp] theorem State.setKey_stackDepth (k : RegIx) (d : Bool) : (s.setKey k d).stackDepth = s.stackDepth := rfl
@[simp] theorem State.setDisp_getV (d : Display) (j : RegIx) : (s.setDisp d).getV j = s.getV j := rfl
@[simp] theorem State.setDisp_key (d : Display) (k : RegIx) : (s.setDisp d).key k = s.key k := rfl
@[simp] theorem State.setDisp_byteAt (d : Display) (m : Nat) : (s.setDisp d).byteAt m = s.byteAt m := rfl
@[simp] theorem State.setDisp_stackDepth (d : Display) : (s.setDisp d).stackDepth = s.stackDepth := rfl
@[simp] theorem State.setByte_getV (a : Nat) (b : Byte) (j : RegIx) : (s.setByte a b).getV j = s.getV j := rfl
@[simp] theorem State.setByte_cell (a : Nat) (b : Byte) (k : Nat) : (s.setByte a b).cell k = s.cell k := rfl
@[simp] theorem State.setByte_key (a : Nat) (b : Byte) (k : RegIx) : (s.setByte a b).key k = s.key k := rfl
@[simp] theorem State.setByte_stackDepth (a : Nat) (b : Byte) : (s.setByte a b).stackDepth = s.stackDepth := rfl
@[simp] theorem State.countDraw_getV (j : RegIx) : (s.countDraw).getV j = s.getV j := rfl
@[simp] theorem State.countDraw_cell (k : Nat) : (s.countDraw).cell k = s.cell k := rfl
@[simp] theorem State.countDraw_key (k : RegIx) : (s.countDraw).key k = s.key k := rfl
@[simp] theorem State.countDraw_byteAt (m : Nat) : (s.countDraw).byteAt m = s.byteAt m := rfl
@[simp] theorem State.countDraw_stackDepth : (s.countDraw).stackDepth = s.stackDepth := rfl

@[simp] theorem State.push_stackDepth : s.push.stackDepth = s.stackDepth := by simp [State.stackDepth]

end fields

/-! ### Reading what was written -/

theorem State.setV_getV (s : State) (x j : RegIx) (b : Byte) : (s.setV x b).getV j = if j = x then b else s.getV j := by
  simp only [State.getV, State.setV_v, Fin.getElem_fin, Vector.getElem_set]
  by_cases h : j = x
  · simp [h]
  · have : x.val ≠ j.val := fun e => h (Fin.ext e.symm)
    simp [h, this]

@[simp] theorem State.setV_getV_same (s : State) (x : RegIx) (b : Byte) : (s.setV x b).getV x = b := by
  simp [State.setV_getV]

theorem State.setV_getV_other (s : State) {x j : RegIx} (b : Byte) (h : j ≠ x) : (s.setV x b).getV j = s.getV j := by
  simp [State.setV_getV, h]

@[simp] theorem State.setAllV_getV (s : State) (f : RegIx → Byte) (j : RegIx) : (s.setAllV f).getV j = f j := by
  simp [State.getV]

theorem State.setKey_key (s : State) (k j : RegIx) (d : Bool) : (s.setKey k d).key j = if j = k then d else s.key j := by
  simp only [State.key, State.setKey_keys, Fin.getElem_fin, Vector.getElem_set]
  by_cases h : j = k
  · simp [h]
  · have : k.val ≠ j.val := fun e => h (Fin.ext e.symm)
    simp [h, this]

/-- What an arithmetic instruction leaves in the registers: the flag in VF, else the result in V[X] (R144, D12). -/
theorem State.setResultAndFlag_getV (s : State) (x j : RegIx) (r : Byte) (c : Bool) :
    (s.setResultAndFlag x r c).getV j = if j = flagReg then flagByte c else if j = x then r else s.getV j := by
  simp only [State.setResultAndFlag, State.setV_getV]

@[simp] theorem State.setResultAndFlag_pc (s : State) (x : RegIx) (r : Byte) (c : Bool) :
    (s.setResultAndFlag x r c).pc = s.pc := rfl
@[simp] theorem State.setResultAndFlag_stack (s : State) (x : RegIx) (r : Byte) (c : Bool) :
    (s.setResultAndFlag x r c).stack = s.stack := rfl
@[simp] theorem State.setResultAndFlag_sp (s : State) (x : RegIx) (r : Byte) (c : Bool) :
    (s.setResultAndFlag x r c).sp = s.sp := rfl
@[simp] theorem State.setResultAndFlag_index (s : State) (x : RegIx) (r : Byte) (c : Bool) :
    (s.setResultAndFlag x r c).index = s.index := rfl
@[simp] theorem State.setResultAndFlag_disp (s : State) (x : RegIx) (r : Byte) (c : Bool) :
    (s.setResultAndFlag x r c).disp = s.disp := rfl
@[simp] theorem State.setResultAndFlag_dt (s : State) (x : RegIx) (r : Byte) (c : Bool) :
    (s.setResultAndFlag x r c).dt = s.dt := rfl
@[simp] theorem State.setResultAndFlag_st (s : State) (x : RegIx) (r : Byte) (c : Bool) :
    (s.setResultAndFlag x r c).st = s.st := rfl
@[simp] theorem State.setResultAndFlag_keys (s : State) (x : RegIx) (r : Byte) (c : Bool) :
    (s.setResultAndFlag x r c).keys = s.keys := rfl
@[simp] theorem State.setResultAndFlag_mem (s : State) (x : RegIx) (r : Byte) (c : Bool) :
    (s.setResultAndFlag x r c).mem = s.mem := rfl
@[simp] theorem State.setResultAndFlag_cfg (s : State) (x : RegIx) (r : Byte) (c : Bool) :
    (s.setResultAndFlag x r c).cfg = s.cfg := rfl
@[simp] theorem State.setResultAndFlag_draws (s : State) (x : RegIx) (r : Byte) (c : Bool) :
    (s.setResultAndFlag x r c).draws = s.draws := rfl
@[simp] theorem State.setResultAndFlag_cell (s : State) (x : RegIx) (r : Byte) (c : Bool) (k : Nat) :
    (s.setResultAndFlag x r c).cell k = s.cell k := rfl
@[simp] theorem State.setResultAndFlag_key (s : State) (x : RegIx) (r : Byte) (c : Bool) (k : RegIx) :
    (s.setResultAndFlag x r c).key k = s.key k := rfl
@[simp] theorem State.setResultAndFlag_byteAt (s : State) (x : RegIx) (r : Byte) (c : Bool) (m : Nat) :
    (s.setResultAndFlag x r c).byteAt m = s.byteAt m := rfl
@[simp] theorem State.setResultAndFlag_stackDepth (s : State) (x : RegIx) (r : Byte) (c : Bool) :
    (s.setResultAndFlag x r c).stackDepth = s.stackDepth := rfl

end Sys2Proof.Machine
end

