-- ==== Sys2Proof/Laws/Memory.lean ====
section
/-!
SUPPORT. Memory: a read after a write, the canonical form, and the address bound, for one byte and for bytes in a row.
-/

namespace Sys2Proof.Machine

/-! ### Reading -/

theorem Memory.read_of_not_listed (m : Memory) (a : Nat) (h : ∀ c ∈ m, c.1 ≠ a) : m.read a = blankByte := by
  induction m with
  | nil => rfl
  | cons c rest ih =>
    obtain ⟨k, b⟩ := c
    have hk : k ≠ a := h (k, b) (by simp)
    simp only [Memory.read, if_neg hk]
    exact ih fun c hc => h c (by simp [hc])

theorem Memory.read_erase_same (m : Memory) (a : Nat) : (m.erase a).read a = blankByte :=
  Memory.read_of_not_listed _ _ fun c hc => by simpa using (List.mem_filter.mp hc).2

theorem Memory.read_erase_other (m : Memory) {a c : Nat} (h : c ≠ a) : (m.erase a).read c = m.read c := by
  induction m with
  | nil => rfl
  | cons e rest ih =>
    obtain ⟨k, b⟩ := e
    by_cases hk : k = a
    · subst hk
      have hc : ¬ k = c := fun e => h e.symm
      simpa [Memory.erase, Memory.read, hc] using ih
    · by_cases hc : k = c
      · simp [Memory.erase, Memory.read, hc, h]
      · simpa [Memory.erase, Memory.read, hk, hc] using ih

theorem Memory.read_insert (m : Memory) (a c : Nat) (b : Byte) (ha : ∀ e ∈ m, e.1 ≠ a) :
    (Memory.insert a b m).read c = if c = a then b else m.read c := by
  induction m with
  | nil => simp [Memory.insert, Memory.read, eq_comm]
  | cons e rest ih =>
    obtain ⟨k, d⟩ := e
    have hk : k ≠ a := ha (k, d) (by simp)
    have ih := ih fun e he => ha e (by simp [he])
    by_cases hlt : a < k
    · simp [Memory.insert, Memory.read, hlt, eq_comm]
    · simp only [Memory.insert, if_neg hlt, Memory.read, ih]
      by_cases hc : k = c
      · simp [hc ▸ hk, hc]
      · simp [hc]

/-- A read after a write: the written byte at its address, every other byte as before. It holds of every list of cells. -/
theorem Memory.read_write (m : Memory) (a c : Nat) (b : Byte) :
    (m.write a b).read c = if c = a then b else m.read c := by
  unfold Memory.write
  split
  · next hb =>
    by_cases h : c = a
    · simp [h, Memory.read_erase_same, hb]
    · simp [h, Memory.read_erase_other m h]
  · rw [Memory.read_insert]
    · by_cases h : c = a
      · simp [h]
      · simp [h, Memory.read_erase_other m h]
    · intro e he
      simpa using (List.mem_filter.mp he).2

@[simp] theorem State.byteAt_setByte (s : State) (a c : Nat) (b : Byte) :
    (s.setByte a b).byteAt c = if c = a then b else s.byteAt c := Memory.read_write s.mem a c b

/-! ### The canonical form -/

theorem Memory.mem_insert {m : Memory} {a : Nat} {b : Byte} {c : Host.Cell} :
    c ∈ Memory.insert a b m ↔ c = (a, b) ∨ c ∈ m := by
  induction m with
  | nil => simp [Memory.insert]
  | cons e rest ih =>
    obtain ⟨k, d⟩ := e
    simp only [Memory.insert]
    split
    · simp
    · simp only [List.mem_cons, ih]; tauto

theorem Memory.insert_rising {m : Memory} {a : Nat} {b : Byte} (ha : ∀ c ∈ m, c.1 ≠ a)
    (h : m.Pairwise (fun c d => c.1 < d.1)) : (Memory.insert a b m).Pairwise (fun c d => c.1 < d.1) := by
  induction m with
  | nil => simp [Memory.insert]
  | cons e rest ih =>
    obtain ⟨k, d⟩ := e
    have hk : k ≠ a := ha (k, d) (by simp)
    obtain ⟨hfirst, hrest⟩ := List.pairwise_cons.mp h
    simp only [Memory.insert]
    split
    · next hlt =>
      refine List.pairwise_cons.mpr ⟨fun c hc => ?_, h⟩
      rcases List.mem_cons.mp hc with rfl | hc
      · exact hlt
      · exact Nat.lt_trans hlt (hfirst c hc)
    · next hnlt =>
      refine List.pairwise_cons.mpr ⟨fun c hc => ?_, ih (fun c hc => ha c (by simp [hc])) hrest⟩
      rcases Memory.mem_insert.mp hc with rfl | hc
      · show k < a
        omega
      · exact hfirst c hc

theorem Memory.erase_wf {m : Memory} (h : m.wf) (a : Nat) : (m.erase a).wf :=
  ⟨h.1.filter _, fun c hc => h.2 c (List.mem_filter.mp hc).1⟩

/-- A write keeps the canonical form. -/
theorem Memory.write_wf {m : Memory} (h : m.wf) (a : Nat) (b : Byte) : (m.write a b).wf := by
  unfold Memory.write
  split
  · exact Memory.erase_wf h a
  · next hb =>
    refine ⟨Memory.insert_rising (fun c hc => by simpa using (List.mem_filter.mp hc).2) (Memory.erase_wf h a).1, ?_⟩
    intro c hc
    rcases Memory.mem_insert.mp hc with rfl | hc
    · exact hb
    · exact (Memory.erase_wf h a).2 c hc

/-- A write below the bound lists no address at or above it. -/
theorem Memory.write_below {m : Memory} {n a : Nat} (b : Byte) (h : ∀ c ∈ m, c.1 < n) (ha : a < n) :
    ∀ c ∈ m.write a b, c.1 < n := by
  intro c hc
  unfold Memory.write at hc
  split at hc
  · exact h c (List.mem_filter.mp hc).1
  · rcases Memory.mem_insert.mp hc with rfl | hc
    · exact ha
    · exact h c (List.mem_filter.mp hc).1

/-! ### Bytes in a row -/

/-- What `setBytes` leaves in memory: the bytes in order from `a`, every other byte as before. -/
theorem State.byteAt_setBytes (bs : List Byte) : ∀ (s : State) (a c : Nat),
    (s.setBytes a bs).byteAt c = if a ≤ c ∧ c < a + bs.length then bs.getD (c - a) blankByte else s.byteAt c := by
  induction bs with
  | nil => intro s a c; simp [State.setBytes]
  | cons b rest ih =>
    intro s a c
    simp only [State.setBytes, ih, State.byteAt_setByte, List.length_cons]
    by_cases h1 : a + 1 ≤ c ∧ c < a + 1 + rest.length
    · have h2 : a ≤ c ∧ c < a + (rest.length + 1) := by omega
      have h3 : c - a = (c - (a + 1)) + 1 := by omega
      simp [h1, h2, h3]
    · by_cases h4 : c = a
      · simp [h4]
      · have h2 : ¬ (a ≤ c ∧ c < a + (rest.length + 1)) := by omega
        rw [if_neg h1, if_neg h4, if_neg h2]

/-- `setBytes` writes memory only. -/
theorem State.setBytes_eq (bs : List Byte) : ∀ (s : State) (a : Nat),
    s.setBytes a bs = { s with mem := (s.setBytes a bs).mem } := by
  induction bs with
  | nil => intro s a; rfl
  | cons b rest ih =>
    intro s a
    simp only [State.setBytes]
    exact (ih (s.setByte a b) (a + 1)).trans rfl

section setBytes
variable (s : State) (a : Nat) (bs : List Byte)

@[simp] theorem State.setBytes_v : (s.setBytes a bs).v = s.v := by rw [State.setBytes_eq]
@[simp] theorem State.setBytes_pc : (s.setBytes a bs).pc = s.pc := by rw [State.setBytes_eq]
@[simp] theorem State.setBytes_stack : (s.setBytes a bs).stack = s.stack := by rw [State.setBytes_eq]
@[simp] theorem State.setBytes_sp : (s.setBytes a bs).sp = s.sp := by rw [State.setBytes_eq]
@[simp] theorem State.setBytes_index : (s.setBytes a bs).index = s.index := by rw [State.setBytes_eq]
@[simp] theorem State.setBytes_disp : (s.setBytes a bs).disp = s.disp := by rw [State.setBytes_eq]
@[simp] theorem State.setBytes_dt : (s.setBytes a bs).dt = s.dt := by rw [State.setBytes_eq]
@[simp] theorem State.setBytes_st : (s.setBytes a bs).st = s.st := by rw [State.setBytes_eq]
@[simp] theorem State.setBytes_keys : (s.setBytes a bs).keys = s.keys := by rw [State.setBytes_eq]
@[simp] theorem State.setBytes_cfg : (s.setBytes a bs).cfg = s.cfg := by rw [State.setBytes_eq]
@[simp] theorem State.setBytes_draws : (s.setBytes a bs).draws = s.draws := by rw [State.setBytes_eq]
@[simp] theorem State.setBytes_getV (j : RegIx) : (s.setBytes a bs).getV j = s.getV j := by simp [State.getV]
@[simp] theorem State.setBytes_cell (k : Nat) : (s.setBytes a bs).cell k = s.cell k := by simp [State.cell]
@[simp] theorem State.setBytes_key (k : RegIx) : (s.setBytes a bs).key k = s.key k := by simp [State.key]
@[simp] theorem State.setBytes_stackDepth : (s.setBytes a bs).stackDepth = s.stackDepth := by simp [State.stackDepth]

end setBytes

/-- `setBytes` within memory keeps the invariant. -/
theorem State.setBytes_inv (bs : List Byte) : ∀ {s : State} {a : Nat}, s.Inv → a + bs.length ≤ s.cfg.memSize →
    (s.setBytes a bs).Inv := by
  induction bs with
  | nil => intro s a h _; exact h
  | cons b rest ih =>
    intro s a h hb
    simp only [List.length_cons] at hb
    refine ih ⟨Memory.write_wf h.1 a b, Memory.write_below b h.2.1 (show a < s.cfg.memSize by omega), h.2.2⟩ ?_
    show a + 1 + rest.length ≤ s.cfg.memSize
    omega

end Sys2Proof.Machine
end

