-- ==== Sys2Proof/Laws/Collaborators.lean ====
section
/-!
SUPPORT. Everything the loader and the host steps can do, said once.
-/

namespace Sys2Proof.Machine

/-! ### The loader -/

theorem State.loadByte_eq (s : State) (a : Nat) (b : Byte) :
    s.loadByte a b = { s with mem := if a < s.cfg.memSize then s.mem.write a b else s.mem } := by
  simp only [State.loadByte]; split <;> rfl

theorem State.byteAt_loadByte (s : State) (a c : Nat) (b : Byte) :
    (s.loadByte a b).byteAt c = if a < s.cfg.memSize ∧ c = a then b else s.byteAt c := by
  by_cases h : a < s.cfg.memSize
  · simp [State.loadByte, h, State.byteAt_setByte]
  · simp [State.loadByte, h]

theorem State.loadByte_inv {s : State} (h : s.Inv) (a : Nat) (b : Byte) : (s.loadByte a b).Inv := by
  by_cases ha : a < s.cfg.memSize
  · rw [State.loadByte, if_pos ha]
    exact ⟨Memory.write_wf h.1 a b, Memory.write_below b h.2.1 ha, h.2.2⟩
  · rwa [State.loadByte, if_neg ha]

/-- `loadBytes` writes memory only. -/
theorem State.loadBytes_eq (bs : List Byte) : ∀ (s : State) (a : Nat),
    s.loadBytes a bs = { s with mem := (s.loadBytes a bs).mem } := by
  induction bs with
  | nil => intro s a; rfl
  | cons b rest ih =>
    intro s a
    have h : (s.loadByte a b).loadBytes (a + 1) rest = { s with mem := ((s.loadByte a b).loadBytes (a + 1) rest).mem } :=
      (ih (s.loadByte a b) (a + 1)).trans (by rw [State.loadByte_eq])
    exact h

@[simp] theorem State.loadBytes_cfg (s : State) (a : Nat) (bs : List Byte) : (s.loadBytes a bs).cfg = s.cfg := by
  rw [State.loadBytes_eq]

@[simp] theorem State.loadBytes_sp (s : State) (a : Nat) (bs : List Byte) : (s.loadBytes a bs).sp = s.sp := by
  rw [State.loadBytes_eq]

/-- What `loadBytes` leaves in memory: the bytes in order from `a`, as far as memory goes; every other byte as before. -/
theorem State.byteAt_loadBytes (bs : List Byte) : ∀ (s : State) (a c : Nat),
    (s.loadBytes a bs).byteAt c =
      if a ≤ c ∧ c < a + bs.length ∧ c < s.cfg.memSize then bs.getD (c - a) blankByte else s.byteAt c := by
  induction bs with
  | nil => intro s a c; rw [if_neg (by simp only [List.length_nil]; omega)]; rfl
  | cons b rest ih =>
    intro s a c
    have hcfg : (s.loadByte a b).cfg = s.cfg := by rw [State.loadByte_eq]
    simp only [State.loadBytes, ih, State.byteAt_loadByte, List.length_cons, hcfg]
    by_cases h1 : a + 1 ≤ c ∧ c < a + 1 + rest.length ∧ c < s.cfg.memSize
    · rw [if_pos h1, if_pos (by omega), show c - a = (c - (a + 1)) + 1 by omega, List.getD_cons_succ]
    · rw [if_neg h1]
      by_cases h2 : a < s.cfg.memSize ∧ c = a
      · rw [if_pos h2, if_pos (by omega), h2.2, Nat.sub_self, List.getD_cons_zero]
      · rw [if_neg h2, if_neg (by omega)]

theorem State.loadBytes_inv (bs : List Byte) : ∀ {s : State} (a : Nat), s.Inv → (s.loadBytes a bs).Inv := by
  induction bs with
  | nil => intro s a h; exact h
  | cons b rest ih => intro s a h; exact ih (a + 1) (State.loadByte_inv h a b)

/-! ### The font -/

theorem fontBytes_length : fontBytes.length = 80 := by decide

/-- Digit d's glyph stands at offset 5d of the font. -/
theorem fontBytes_getD : ∀ (d : RegIx) (k : Fin 5), fontBytes.getD (5 * d.val + k.val) 0 = (glyph d).getD k.val 0 := by
  decide

@[simp] theorem State.loadFont_cfg (s : State) : s.loadFont.cfg = s.cfg := by
  rw [State.loadFont, State.loadBytes_cfg]

@[simp] theorem State.loadFont_sp (s : State) : s.loadFont.sp = s.sp := by
  rw [State.loadFont, State.loadBytes_sp]

theorem State.loadFont_inv {s : State} (h : s.Inv) : s.loadFont.Inv := by
  rw [State.loadFont]; exact State.loadBytes_inv _ _ h

/-- Where the font lies in memory, each glyph stands at its place. -/
theorem State.byteAt_loadFont {s : State} (h : s.cfg.fontBase + 80 ≤ s.cfg.memSize) (d : RegIx) {k : Nat} (hk : k < 5) :
    s.loadFont.byteAt (s.cfg.fontBase + 5 * d.val + k) = (glyph d).getD k 0 := by
  have hd := d.isLt
  rw [State.loadFont, State.byteAt_loadBytes, fontBytes_length, if_pos (by omega), ← fontBytes_getD d ⟨k, hk⟩,
    show s.cfg.fontBase + 5 * d.val + k - s.cfg.fontBase = 5 * d.val + k by omega]
  rfl

/-- Loading the font into memory that has room for it. -/
theorem State.loadFont_holdsFont {s : State} (h : s.cfg.fontBase + 80 ≤ s.cfg.memSize) : s.loadFont.HoldsFont := by
  intro d k hk
  rw [State.loadFont_cfg]
  exact State.byteAt_loadFont h d hk

/-- Bytes loaded clear of the font leave it. -/
theorem State.loadBytes_holdsFont {s : State} {a : Nat} {bs : List Byte} (h : s.HoldsFont)
    (hd : s.cfg.fontBase + 80 ≤ a ∨ a + bs.length ≤ s.cfg.fontBase) : (s.loadBytes a bs).HoldsFont := by
  intro d k hk
  have := d.isLt
  rw [State.loadBytes_cfg, State.byteAt_loadBytes, if_neg (by omega)]
  exact h d k hk

/-! ### The host steps -/

theorem State.timerTick_dt_toNat (s : State) : s.timerTick.dt.toNat = s.dt.toNat - 1 := by
  simp only [State.timerTick]
  split
  · next h => rw [h]; rfl
  · next h =>
    have : s.dt.toNat ≠ 0 := fun h0 => h (BitVec.eq_of_toNat_eq h0)
    have := s.dt.isLt
    rw [BitVec.toNat_sub, show (1 : Byte).toNat = 1 from rfl]; omega

theorem State.timerTick_st_toNat (s : State) : s.timerTick.st.toNat = s.st.toNat - 1 := by
  simp only [State.timerTick]
  split
  · next h => rw [h]; rfl
  · next h =>
    have : s.st.toNat ≠ 0 := fun h0 => h (BitVec.eq_of_toNat_eq h0)
    have := s.st.isLt
    rw [BitVec.toNat_sub, show (1 : Byte).toNat = 1 from rfl]; omega

/-- Every host step keeps the invariant. -/
theorem HostStep.apply_inv (e : HostStep) {s : State} (h : s.Inv) : (e.apply s).Inv := by cases e <;> exact h

end Sys2Proof.Machine
end

