-- ==== Sys2Proof/Laws/Decode.lean ====
section
/-!
SUPPORT. The fields of an opcode as numbers, and what each field of an assembled opcode is.
-/

namespace Sys2Proof

/-! ### Opcodes as numbers -/

theorem toNat_append_eq_add {m n : Nat} (a : BitVec m) (b : BitVec n) : (a ++ b).toNat = a.toNat * 2 ^ n + b.toNat := by
  rw [BitVec.toNat_append, ← Nat.shiftLeft_add_eq_or_of_lt b.isLt, Nat.shiftLeft_eq]

theorem wordXYN_toNat (f : Nibble) (x y : RegIx) (n : Nibble) :
    (wordXYN f x y n).toNat = f.toNat * 4096 + x.val * 256 + y.val * 16 + n.toNat := by
  simp only [wordXYN, toNat_append_eq_add, BitVec.toNat_ofFin]; omega

theorem wordXNN_toNat (f : Nibble) (x : RegIx) (nn : Byte) :
    (wordXNN f x nn).toNat = f.toNat * 4096 + x.val * 256 + nn.toNat := by
  simp only [wordXNN, toNat_append_eq_add, BitVec.toNat_ofFin]; omega

theorem wordNNN_toNat (f : Nibble) (nnn : Addr) : (wordNNN f nnn).toNat = f.toNat * 4096 + nnn.toNat := by
  simp only [wordNNN, toNat_append_eq_add]; omega

theorem joinBytes_toNat (hi lo : Byte) : (joinBytes hi lo).toNat = hi.toNat * 256 + lo.toNat := by
  simp only [joinBytes, toNat_append_eq_add]; omega

@[simp] theorem joinBytes_highByte_lowByte (op : Word) : joinBytes (highByte op) (lowByte op) = op := by
  apply BitVec.eq_of_toNat_eq
  have := op.isLt
  simp only [joinBytes_toNat, highByte, lowByte, BitVec.toNat_ofNat]; omega

@[simp] theorem highByte_joinBytes (hi lo : Byte) : highByte (joinBytes hi lo) = hi := by
  apply BitVec.eq_of_toNat_eq
  have := hi.isLt; have := lo.isLt
  simp only [highByte, joinBytes_toNat, BitVec.toNat_ofNat]; omega

@[simp] theorem lowByte_joinBytes (hi lo : Byte) : lowByte (joinBytes hi lo) = lo := by
  apply BitVec.eq_of_toNat_eq
  have := hi.isLt; have := lo.isLt
  simp only [lowByte, joinBytes_toNat, BitVec.toNat_ofNat]; omega

/-! ### The extractor as arithmetic -/

theorem lastNQuadbits_toNat (op : Word) (n : Fin 5) : (lastNQuadbits op n).toNat = op.toNat % 2 ^ (4 * n.val) := by
  have hn : 2 ^ (4 * n.val) - 1 < 2 ^ 16 := by
    have : 2 ^ (4 * n.val) ≤ 2 ^ 16 := Nat.pow_le_pow_right (by decide) (by omega)
    omega
  rw [lastNQuadbits, BitVec.toNat_and, BitVec.toNat_ofNat, Nat.mod_eq_of_lt hn, Nat.and_two_pow_sub_one_eq_mod]

theorem nField_toNat (op : Word) : (nField op).toNat = op.toNat % 16 := by
  simp [nField, lastNQuadbits_toNat]

theorem nnField_toNat (op : Word) : (nnField op).toNat = op.toNat % 256 := by
  simp [nnField, lastNQuadbits_toNat]

theorem nnnField_toNat (op : Word) : (nnnField op).toNat = op.toNat % 4096 := by
  simp [nnnField, lastNQuadbits_toNat]

/-! ### The fields of an assembled opcode -/

section fields
variable (f n : Nibble) (x y : RegIx) (nn : Byte) (nnn : Addr)

@[simp] theorem family_wordXYN : family (wordXYN f x y n) = f.toNat := by
  rw [family, wordXYN_toNat]; omega

@[simp] theorem family_wordXNN : family (wordXNN f x nn) = f.toNat := by
  rw [family, wordXNN_toNat]; omega

@[simp] theorem family_wordNNN : family (wordNNN f nnn) = f.toNat := by
  rw [family, wordNNN_toNat]; omega

@[simp] theorem xRegister_wordXYN : xRegister (wordXYN f x y n) = x := by
  apply Fin.ext; simp only [xRegister, wordXYN_toNat]; omega

@[simp] theorem xRegister_wordXNN : xRegister (wordXNN f x nn) = x := by
  apply Fin.ext; simp only [xRegister, wordXNN_toNat]; omega

@[simp] theorem yRegister_wordXYN : yRegister (wordXYN f x y n) = y := by
  apply Fin.ext; simp only [yRegister, wordXYN_toNat]; omega

@[simp] theorem nField_wordXYN : nField (wordXYN f x y n) = n := by
  apply BitVec.eq_of_toNat_eq; rw [nField_toNat, wordXYN_toNat]; omega

@[simp] theorem nnField_wordXNN : nnField (wordXNN f x nn) = nn := by
  apply BitVec.eq_of_toNat_eq; rw [nnField_toNat, wordXNN_toNat]; omega

@[simp] theorem nnnField_wordNNN : nnnField (wordNNN f nnn) = nnn := by
  apply BitVec.eq_of_toNat_eq; rw [nnnField_toNat, wordNNN_toNat]; omega

end fields

/-! ### Every opcode is the assembly of its fields -/

theorem wordXYN_fields (op : Word) :
    wordXYN (BitVec.ofNat 4 (family op)) (xRegister op) (yRegister op) (nField op) = op := by
  apply BitVec.eq_of_toNat_eq
  have := op.isLt
  rw [wordXYN_toNat, nField_toNat, BitVec.toNat_ofNat]
  simp only [family, xRegister, yRegister]; omega

theorem wordXNN_fields (op : Word) : wordXNN (BitVec.ofNat 4 (family op)) (xRegister op) (nnField op) = op := by
  apply BitVec.eq_of_toNat_eq
  have := op.isLt
  rw [wordXNN_toNat, nnField_toNat, BitVec.toNat_ofNat]
  simp only [family, xRegister]; omega

theorem wordNNN_fields (op : Word) : wordNNN (BitVec.ofNat 4 (family op)) (nnnField op) = op := by
  apply BitVec.eq_of_toNat_eq
  have := op.isLt
  rw [wordNNN_toNat, nnnField_toNat, BitVec.toNat_ofNat]
  simp only [family]; omega

theorem family_lt (op : Word) : family op < 16 := by
  have := op.isLt
  simp only [family]; omega

end Sys2Proof
end

