-- ==== Sys2Proof/Laws/Ops.lean ====
section
/-!
SUPPORT. One lemma per shared operation saying everything it can do, for proofs to cite instead of unfolding it.
-/

namespace Sys2Proof.Machine

/-! ### Range checks -/

theorem State.spanFits_iff (s : State) (a n : Nat) : s.spanFits a n = true ↔ n = 0 ∨ a + n ≤ s.cfg.memSize := by
  simp [State.spanFits]

theorem State.whenSpanFits_of_fits {s : State} {a n : Nat} (t : State) (h : n = 0 ∨ a + n ≤ s.cfg.memSize) :
    s.whenSpanFits a n t = .next t := by
  simp [State.whenSpanFits, (s.spanFits_iff a n).mpr h]

theorem State.whenSpanFits_of_not_fits {s : State} {a n : Nat} (t : State) (h0 : n ≠ 0) (h : s.cfg.memSize < a + n) :
    s.whenSpanFits a n t = .fault (.outOfRange (max a s.cfg.memSize)) := by
  have : s.spanFits a n = false := by
    rw [Bool.eq_false_iff, ne_eq, State.spanFits_iff]; omega
  simp [State.whenSpanFits, this, raise]

theorem State.whenSpanFits_next {s t u : State} {a n : Nat} (h : s.whenSpanFits a n t = .next u) :
    (n = 0 ∨ a + n ≤ s.cfg.memSize) ∧ u = t := by
  unfold State.whenSpanFits at h
  split at h
  · next hf => exact ⟨(s.spanFits_iff a n).mp hf, by cases h; rfl⟩
  · exact absurd h (by simp [raise])

theorem State.whenSpanFits_fault {s t : State} {a n : Nat} {f : Fault} (h : s.whenSpanFits a n t = .fault f) :
    n ≠ 0 ∧ s.cfg.memSize < a + n ∧ f = .outOfRange (max a s.cfg.memSize) := by
  unfold State.whenSpanFits at h
  split at h
  · cases h
  · next hf =>
    rw [State.spanFits_iff] at hf
    simp only [raise] at h
    exact ⟨by omega, by omega, by cases h; rfl⟩

theorem State.whenSpanFits_not_refused {s t : State} {a n : Nat} {r : Refusal} : s.whenSpanFits a n t ≠ .refused r := by
  unfold State.whenSpanFits
  split <;> simp [raise]

/-! ### The stack pointer precondition -/

theorem State.whenSpInRange_of_le {s : State} (r : Host.Outcome State Fault Refusal) (h : s.sp ≤ s.stackDepth) :
    s.whenSpInRange r = r := by
  simp [State.whenSpInRange, Nat.not_lt.mpr h]

theorem State.whenSpInRange_of_gt {s : State} (r : Host.Outcome State Fault Refusal) (h : s.stackDepth < s.sp) :
    s.whenSpInRange r = .refused (.stackPointerOutOfRange s.sp) := by
  simp [State.whenSpInRange, h]

theorem State.whenSpInRange_next {s u : State} {r : Host.Outcome State Fault Refusal} (h : s.whenSpInRange r = .next u) :
    s.sp ≤ s.stackDepth ∧ r = .next u := by
  rcases Nat.lt_or_ge s.stackDepth s.sp with hlt | hle
  · rw [State.whenSpInRange_of_gt r hlt] at h; cases h
  · exact ⟨hle, by rwa [State.whenSpInRange_of_le r hle] at h⟩

theorem State.whenSpInRange_fault {s : State} {r : Host.Outcome State Fault Refusal} {f : Fault}
    (h : s.whenSpInRange r = .fault f) : s.sp ≤ s.stackDepth ∧ r = .fault f := by
  rcases Nat.lt_or_ge s.stackDepth s.sp with hlt | hle
  · rw [State.whenSpInRange_of_gt r hlt] at h; cases h
  · exact ⟨hle, by rwa [State.whenSpInRange_of_le r hle] at h⟩

/-! ### Keys -/

theorem keyIndex_of_lt {b : Byte} (h : b.toNat < 16) : keyIndex b = some ⟨b.toNat, h⟩ := by simp [keyIndex, h]

theorem keyIndex_of_ge {b : Byte} (h : 16 ≤ b.toNat) : keyIndex b = none := by simp [keyIndex, Nat.not_lt.mpr h]

theorem State.lowestKey_none (s : State) : s.lowestKey = none ↔ ∀ k, s.key k = false := by
  simp [State.lowestKey, List.find?_eq_none]

theorem State.lowestKey_some {s : State} {k : RegIx} :
    s.lowestKey = some k ↔ s.key k = true ∧ ∀ j, j < k → s.key j = false := by
  have hsorted : (List.finRange 16).Pairwise (· < ·) := by decide
  constructor
  · intro h
    refine ⟨List.find?_some h, fun j hj => ?_⟩
    obtain ⟨_, as, bs, happ, hno⟩ := List.find?_eq_some_iff_append.mp h
    have hmem : j ∈ as ++ k :: bs := happ ▸ List.mem_finRange j
    rcases List.mem_append.mp hmem with hj' | hj'
    · simpa using hno j hj'
    · rw [happ, List.pairwise_append] at hsorted
      rcases List.mem_cons.mp hj' with rfl | hb
      · exact absurd hj (lt_irrefl _)
      · exact absurd hj (not_lt.mpr (le_of_lt ((List.pairwise_cons.mp hsorted.2.1).1 j hb)))
  · rintro ⟨hk, hlow⟩
    cases hf : s.lowestKey with
    | none => exact absurd hk (by simp [s.lowestKey_none.mp hf k])
    | some j =>
      have hj : s.key j = true := List.find?_some hf
      rcases lt_trichotomy j k with h | h | h
      · exact absurd hj (by simp [hlow j h])
      · rw [h]
      · obtain ⟨_, as, bs, happ, hno⟩ := List.find?_eq_some_iff_append.mp hf
        have hmem : k ∈ as ++ j :: bs := happ ▸ List.mem_finRange k
        rcases List.mem_append.mp hmem with hk' | hk'
        · exact absurd hk (by simpa using hno k hk')
        · rw [happ, List.pairwise_append] at hsorted
          rcases List.mem_cons.mp hk' with rfl | hb
          · rfl
          · exact absurd h (not_lt.mpr (le_of_lt ((List.pairwise_cons.mp hsorted.2.1).1 k hb)))

/-! ### Fetch -/

theorem State.fetch_of_lt {s : State} (h : s.pc.toNat + 1 < s.cfg.memSize) :
    s.fetch = some (joinBytes (s.byteAt s.pc.toNat) (s.byteAt (s.pc.toNat + 1))) := by
  simp [State.fetch, h]

theorem State.fetch_of_ge {s : State} (h : s.cfg.memSize ≤ s.pc.toNat + 1) : s.fetch = none := by
  simp [State.fetch, Nat.not_lt.mpr h]

theorem State.fetch_some {s : State} {op : Word} (h : s.fetch = some op) :
    s.pc.toNat + 1 < s.cfg.memSize ∧ op = joinBytes (s.byteAt s.pc.toNat) (s.byteAt (s.pc.toNat + 1)) := by
  unfold State.fetch at h
  split at h
  · next hlt => exact ⟨hlt, by cases h; rfl⟩
  · cases h

/-- An opcode placed at pc is the opcode fetched. -/
theorem State.fetch_placeOpcode (s : State) (op : Word) (h : s.pc.toNat + 1 < s.cfg.memSize) :
    (s.placeOpcode op).fetch = some op := by
  have hp : s.placeOpcode op = s.setBytes s.pc.toNat [highByte op, lowByte op] := by simp [State.placeOpcode, h]
  rw [hp, State.fetch_of_lt (by simpa using h)]
  simp [State.byteAt_setBytes]

/-! ### Operands -/

@[simp] theorem zextAddr_toNat (nnn : Addr) : (zextAddr nnn).toNat = nnn.toNat := by
  simp [zextAddr]; omega

@[simp] theorem zextByte_toNat (b : Byte) : (zextByte b).toNat = b.toNat := by
  simp [zextByte]; omega

@[simp] theorem State.regsUpTo_length (s : State) (x : RegIx) : (s.regsUpTo x).length = x.val + 1 := by
  simp [State.regsUpTo]

theorem State.regsUpTo_getD (s : State) (x : RegIx) {k : RegIx} (h : k ≤ x) (d : Byte) :
    (s.regsUpTo x).getD k.val d = s.getV k := by
  have hk : k.val < x.val + 1 := Nat.lt_succ_of_le h
  rw [List.getD_eq_getElem _ _ (by simpa using hk)]
  simp only [State.regsUpTo, List.getElem_ofFn, Fin.castLE]

@[simp] theorem decimalDigits_length (b : Byte) : (decimalDigits b).length = 3 := by simp [decimalDigits]

/-! ### Flags -/

@[simp] theorem flagByte_toNat (c : Bool) : (flagByte c).toNat = c.toNat := by cases c <;> rfl

theorem carryOut_iff (a b : Byte) : carryOut a b = true ↔ 256 ≤ a.toNat + b.toNat := by simp [carryOut]

theorem noBorrow_iff (m t : Byte) : noBorrow m t = true ↔ t.toNat ≤ m.toNat := by simp [noBorrow]

theorem lostRight_toNat (b : Byte) : (lostRight b).toNat = b.toNat % 2 := by
  rcases Nat.mod_two_eq_zero_or_one b.toNat with h | h <;> simp [lostRight, BitVec.getLsbD, Nat.testBit, h]

theorem lostLeft_toNat (b : Byte) : (lostLeft b).toNat = b.toNat / 128 := by
  have hb := b.isLt
  have h : b.toNat / 128 = 0 ∨ b.toNat / 128 = 1 := by omega
  rcases h with h | h <;> simp [lostLeft, BitVec.getLsbD, Nat.testBit, Nat.shiftRight_eq_div_pow, h]

/-! ### Skip on a key -/

theorem State.skipOnKey_of_lt {s : State} {x : RegIx} (down : Bool) (h : (s.getV x).toNat < 16) :
    s.skipOnKey x down = .next (s.skipIf (s.key ⟨(s.getV x).toNat, h⟩ == down)) := by
  simp [State.skipOnKey, keyIndex_of_lt h]

theorem State.skipOnKey_of_ge {s : State} {x : RegIx} (down : Bool) (h : 16 ≤ (s.getV x).toNat) :
    s.skipOnKey x down = .fault (.outOfRange (s.getV x).toNat) := by
  simp [State.skipOnKey, keyIndex_of_ge h, raise]

end Sys2Proof.Machine
end

