-- ==== Sys2Proof/Laws/Draw.lean ====
section
/-!
SUPPORT. What a draw does to the display: the cells a sprite flips as a list, that no cell stands in it twice (R190,
"Cell order"), and the display and the collision after flipping them.
-/

namespace Sys2Proof.Machine

/-! ### One cell -/

theorem Display.cell_flip (d : Display) {k : Nat} (j : Nat) (hk : k < displayCells) :
    (d.flip k).cell j = if j = k then !d.cell j else d.cell j := by
  have hrow : k / displayW < displayH := by simp only [displayW, displayH, displayCells] at *; omega
  have hcol : k % displayW < displayW := Nat.mod_lt _ (by decide)
  have hjcol : j % displayW < displayW := Nat.mod_lt _ (by decide)
  by_cases hr : j / displayW = k / displayW
  · have hget : (d.flip k).row (j / displayW) = d.row (k / displayW) ^^^ BitVec.twoPow displayW (k % displayW) := by
      simp [Display.flip, Display.row, hr, hrow]
    by_cases hj : j = k
    · subst hj
      simp [Display.cell, hget, hcol]
    · have hc : k % displayW ≠ j % displayW := by simp only [displayW] at *; omega
      rw [Display.cell, hget, if_neg hj, Display.cell, hr]
      simp [BitVec.getLsbD_twoPow, hc]
  · have hj : j ≠ k := fun e => hr (by rw [e])
    have hget : (d.flip k).row (j / displayW) = d.row (j / displayW) := by
      simp only [Display.flip, Display.row]
      rw [Vector.getElem?_setIfInBounds_ne (fun e => hr e.symm)]
    simp [Display.cell, hget, hj]

@[simp] theorem Display.cell_clear (k : Nat) : Display.clear.cell k = false := by
  simp only [Display.cell, Display.row, Display.clear]
  by_cases h : k / displayW < displayH
  · simp [h]
  · simp [h]

/-! ### Flipping a list of cells -/

theorem Canvas.foldl_flipCell (ks : List Nat) : ∀ (cv : Canvas), ks.Nodup → (∀ k ∈ ks, k < displayCells) →
    (∀ j, (ks.foldl Canvas.flipCell cv).disp.cell j = (cv.disp.cell j ^^ decide (j ∈ ks))) ∧
    ((ks.foldl Canvas.flipCell cv).collide = true ↔ cv.collide = true ∨ ∃ k ∈ ks, cv.disp.cell k = true) := by
  induction ks with
  | nil => intro cv _ _; simp
  | cons k rest ih =>
    intro cv hnd hlt
    obtain ⟨hk, hnd⟩ := List.nodup_cons.mp hnd
    have hklt : k < displayCells := hlt k (by simp)
    obtain ⟨hcell, hcol⟩ := ih (cv.flipCell k) hnd fun j hj => hlt j (by simp [hj])
    refine ⟨fun j => ?_, ?_⟩
    · rw [List.foldl_cons, hcell]
      simp only [Canvas.flipCell, Display.cell_flip _ _ hklt, List.mem_cons]
      by_cases hj : j = k
      · subst hj; simp [hk]
      · simp [hj]
    · rw [List.foldl_cons, hcol]
      have hother : (∃ j ∈ rest, (cv.flipCell k).disp.cell j = true) ↔ ∃ j ∈ rest, cv.disp.cell j = true := by
        refine exists_congr fun j => and_congr_right fun hj => ?_
        have : j ≠ k := fun e => hk (e ▸ hj)
        simp [Canvas.flipCell, Display.cell_flip _ _ hklt, this]
      rw [hother]
      simp [Canvas.flipCell, or_assoc]

/-! ### The cells of a sprite -/

/-- The cell a set pixel at (px, py) flips, if any. -/
def plotCells (edge : DrawEdge) (px py : Nat) : List Nat :=
  match edge with
  | .wrap => [py % displayH * displayW + px % displayW]
  | .clip => if displayW ≤ px ∨ displayH ≤ py then [] else [py * displayW + px]

theorem Canvas.plot_eq (cv : Canvas) (edge : DrawEdge) (px py : Nat) :
    cv.plot edge px py = (plotCells edge px py).foldl Canvas.flipCell cv := by
  cases edge with
  | wrap => rfl
  | clip => simp only [Canvas.plot, plotCells]; split <;> rfl

/-- The cells one row flips among its columns `cs`. -/
def rowCells (edge : DrawEdge) (x0 py : Nat) (b : Byte) (cs : List Nat) : List Nat :=
  cs.flatMap (fun c => if spriteBit b c then plotCells edge (x0 + c) py else [])

theorem Canvas.foldl_columns (edge : DrawEdge) (x0 py : Nat) (b : Byte) (cs : List Nat) : ∀ cv : Canvas,
    cs.foldl (fun cv c => if spriteBit b c then cv.plot edge (x0 + c) py else cv) cv =
      (rowCells edge x0 py b cs).foldl Canvas.flipCell cv := by
  induction cs with
  | nil => intro cv; rfl
  | cons c rest ih =>
    intro cv
    rw [List.foldl_cons, ih]
    by_cases h : spriteBit b c
    · simp [rowCells, h, Canvas.plot_eq, List.foldl_append]
    · simp [rowCells, h]

/-- The cells the rows flip, the first at row y0. -/
def spriteCells (edge : DrawEdge) (x0 y0 : Nat) : List Byte → List Nat
  | [] => []
  | b :: rest => rowCells edge x0 y0 b (List.range 8) ++ spriteCells edge x0 (y0 + 1) rest

theorem Canvas.drawRows_eq (edge : DrawEdge) (x0 : Nat) (rows : List Byte) : ∀ (cv : Canvas) (y0 : Nat),
    cv.drawRows edge x0 y0 rows = (spriteCells edge x0 y0 rows).foldl Canvas.flipCell cv := by
  induction rows with
  | nil => intro cv y0; rfl
  | cons b rest ih =>
    intro cv y0
    rw [Canvas.drawRows, ih, spriteCells, List.foldl_append, Canvas.drawRow, Canvas.foldl_columns]

/-! ### Where a pixel lands -/

/-- Every flipped cell lies in the display. -/
theorem plotCells_lt {edge : DrawEdge} {px py k : Nat} (h : k ∈ plotCells edge px py) : k < displayCells := by
  cases edge with
  | wrap => simp only [plotCells, List.mem_singleton, displayW, displayH, displayCells] at *; omega
  | clip =>
    simp only [plotCells] at h
    split at h
    · simp at h
    · simp only [List.mem_singleton, displayW, displayH, displayCells] at *; omega

/-- Two pixels of one sprite never land on one cell. -/
theorem plotCells_inj {edge : DrawEdge} {x0 y0 c c' r r' k : Nat} (hc : c < 8) (hc' : c' < 8) (hr : r < 32) (hr' : r' < 32)
    (h : k ∈ plotCells edge (x0 + c) (y0 + r)) (h' : k ∈ plotCells edge (x0 + c') (y0 + r')) : c = c' ∧ r = r' := by
  cases edge with
  | wrap => simp only [plotCells, List.mem_singleton, displayW, displayH] at *; omega
  | clip =>
    simp only [plotCells] at h h'
    split at h
    · simp at h
    · split at h'
      · simp at h'
      · simp only [List.mem_singleton, displayW, displayH] at *; omega

theorem plotCells_nodup (edge : DrawEdge) (px py : Nat) : (plotCells edge px py).Nodup := by
  cases edge with
  | wrap => simp [plotCells]
  | clip => simp only [plotCells]; split <;> simp

theorem mem_rowCells {edge : DrawEdge} {x0 py k : Nat} {b : Byte} {cs : List Nat} :
    k ∈ rowCells edge x0 py b cs ↔ ∃ c ∈ cs, spriteBit b c = true ∧ k ∈ plotCells edge (x0 + c) py := by
  simp only [rowCells, List.mem_flatMap]
  refine exists_congr fun c => and_congr_right fun _ => ?_
  by_cases h : spriteBit b c <;> simp [h]

theorem rowCells_nodup {edge : DrawEdge} {x0 py : Nat} {b : Byte} {cs : List Nat} (hnd : cs.Nodup) (h8 : ∀ c ∈ cs, c < 8) :
    (rowCells edge x0 py b cs).Nodup := by
  induction cs with
  | nil => simp [rowCells]
  | cons c rest ih =>
    obtain ⟨hc, hnd⟩ := List.nodup_cons.mp hnd
    have ih := ih hnd fun d hd => h8 d (by simp [hd])
    have hsplit : rowCells edge x0 py b (c :: rest) =
        (if spriteBit b c then plotCells edge (x0 + c) py else []) ++ rowCells edge x0 py b rest := by simp [rowCells]
    rw [hsplit]
    refine List.nodup_append.mpr ⟨by split; exacts [plotCells_nodup _ _ _, List.nodup_nil], ih, ?_⟩
    intro k hk k' hk' e
    subst e
    have hk : k ∈ plotCells edge (x0 + c) py := by
      split at hk
      · exact hk
      · simp at hk
    obtain ⟨d, hd, _, hkd⟩ := mem_rowCells.mp hk'
    have := (plotCells_inj (y0 := py) (r := 0) (r' := 0) (h8 c (by simp)) (h8 d (by simp [hd])) (by decide) (by decide) hk hkd).1
    exact hc (this ▸ hd)

theorem mem_spriteCells {edge : DrawEdge} {x0 k : Nat} {rows : List Byte} : ∀ {y0 : Nat},
    k ∈ spriteCells edge x0 y0 rows ↔
      ∃ r c, r < rows.length ∧ c < 8 ∧ spriteBit (rows.getD r 0) c = true ∧ k ∈ plotCells edge (x0 + c) (y0 + r) := by
  induction rows with
  | nil => intro y0; simp [spriteCells]
  | cons b rest ih =>
    intro y0
    rw [spriteCells, List.mem_append, mem_rowCells, ih]
    constructor
    · rintro (⟨c, hc, hb, hk⟩ | ⟨r, c, hr, hc, hb, hk⟩)
      · exact ⟨0, c, by simp, by simpa using hc, by simpa using hb, hk⟩
      · refine ⟨r + 1, c, by simpa using hr, hc, by simpa using hb, ?_⟩
        rwa [show y0 + (r + 1) = y0 + 1 + r by omega]
    · rintro ⟨r, c, hr, hc, hb, hk⟩
      cases r with
      | zero => exact .inl ⟨c, by simpa using hc, by simpa using hb, hk⟩
      | succ r =>
        refine .inr ⟨r, c, by simpa using hr, hc, by simpa using hb, ?_⟩
        rwa [show y0 + 1 + r = y0 + (r + 1) by omega]

theorem spriteCells_nodup {edge : DrawEdge} {x0 : Nat} {rows : List Byte} : ∀ {y0 : Nat}, rows.length < 32 →
    (spriteCells edge x0 y0 rows).Nodup := by
  induction rows with
  | nil => intro y0 _; simp [spriteCells]
  | cons b rest ih =>
    intro y0 hlen
    simp only [List.length_cons] at hlen
    rw [spriteCells]
    refine List.nodup_append.mpr ⟨rowCells_nodup List.nodup_range (by simp), ih (by omega), ?_⟩
    intro k hk k' hk' e
    subst e
    obtain ⟨c, hc, _, hkc⟩ := mem_rowCells.mp hk
    obtain ⟨r, c', hr, hc', _, hkr⟩ := mem_spriteCells.mp hk'
    rw [show y0 + 1 + r = y0 + (r + 1) by omega] at hkr
    have := (plotCells_inj (r := 0) (r' := r + 1) (by simpa using hc) hc' (by decide) (by omega) hkc hkr).2
    omega

/-! ### The draw as a whole -/

/-- The display and the collision after a draw, for any sprite of fewer than 32 rows. -/
theorem Canvas.drawRows_spec (cv : Canvas) (edge : DrawEdge) (x0 y0 : Nat) (rows : List Byte) (hlen : rows.length < 32) :
    (∀ j, (cv.drawRows edge x0 y0 rows).disp.cell j = (cv.disp.cell j ^^ decide (j ∈ spriteCells edge x0 y0 rows))) ∧
    ((cv.drawRows edge x0 y0 rows).collide = true ↔
      cv.collide = true ∨ ∃ k ∈ spriteCells edge x0 y0 rows, cv.disp.cell k = true) := by
  rw [Canvas.drawRows_eq]
  refine Canvas.foldl_flipCell _ cv (spriteCells_nodup hlen) fun k hk => ?_
  obtain ⟨r, c, _, _, _, h⟩ := mem_spriteCells.mp hk
  exact plotCells_lt h

@[simp] theorem State.spriteRows_length (s : State) (n : Nat) : (s.spriteRows n).length = n := by simp [State.spriteRows]

theorem State.spriteRows_getD (s : State) {n r : Nat} (h : r < n) : (s.spriteRows n).getD r 0 = s.byteAt (s.index.toNat + r) := by
  rw [List.getD_eq_getElem _ _ (by simpa using h)]
  simp [State.spriteRows]

end Sys2Proof.Machine
end

