-- ==== Sys2Proof/Laws/Step.lean ====
section
/-!
SUPPORT. Everything a dispatch, a step and a scheduled run can do, said once.
-/

namespace Sys2Proof.Machine

/-! ### One dispatch -/

theorem dispatch_of_decoded {op : Word} {i : Instr} {s : State} (hsp : s.sp ≤ s.stackDepth)
    (h : decodeOp s.cfg.gkOpcodes op = .ok i) : dispatch op s = exec i s := by
  rw [dispatch, State.whenSpInRange_of_le _ hsp, h]

theorem dispatch_of_undecoded {op : Word} {e : DecodeError} {s : State} (hsp : s.sp ≤ s.stackDepth)
    (h : decodeOp s.cfg.gkOpcodes op = .error e) : dispatch op s = .fault (.unmappedInstruction op) := by
  rw [dispatch, State.whenSpInRange_of_le _ hsp, h, raise]

theorem dispatch_next {op : Word} {s t : State} (h : dispatch op s = .next t) :
    s.sp ≤ s.stackDepth ∧ ∃ i, decodeOp s.cfg.gkOpcodes op = .ok i ∧ exec i s = .next t := by
  obtain ⟨hsp, h⟩ := State.whenSpInRange_next h
  cases hd : decodeOp s.cfg.gkOpcodes op with
  | ok i => rw [hd] at h; exact ⟨hsp, i, rfl, h⟩
  | error e => rw [hd] at h; simp [raise] at h

theorem dispatch_fault {op : Word} {s : State} {f : Fault} (h : dispatch op s = .fault f) :
    s.sp ≤ s.stackDepth ∧
      ((∃ e, decodeOp s.cfg.gkOpcodes op = .error e ∧ f = .unmappedInstruction op) ∨
        ∃ i, decodeOp s.cfg.gkOpcodes op = .ok i ∧ exec i s = .fault f) := by
  obtain ⟨hsp, h⟩ := State.whenSpInRange_fault h
  refine ⟨hsp, ?_⟩
  cases hd : decodeOp s.cfg.gkOpcodes op with
  | ok i => rw [hd] at h; exact .inr ⟨i, rfl, h⟩
  | error e => rw [hd] at h; simp only [raise] at h; exact .inl ⟨e, rfl, by cases h; rfl⟩

/-! ### One step -/

theorem step_of_fetched {s : State} {op : Word} (hsp : s.sp ≤ s.stackDepth) (h : s.fetch = some op) :
    step s = dispatch op s := by
  rw [step, fetchAndDispatch, State.whenSpInRange_of_le _ hsp, h]

theorem step_of_unfetched {s : State} (hsp : s.sp ≤ s.stackDepth) (h : s.fetch = none) :
    step s = .fault (.outOfRange s.pc.toNat) := by
  rw [step, fetchAndDispatch, State.whenSpInRange_of_le _ hsp, h, raise]

theorem step_of_bad_sp {s : State} (hsp : s.stackDepth < s.sp) : step s = .refused (.stackPointerOutOfRange s.sp) := by
  rw [step, fetchAndDispatch, State.whenSpInRange_of_gt _ hsp]

/-- A step that answers a next state fetched an opcode, decoded it and ran it. -/
theorem step_next {s t : State} (h : step s = .next t) :
    s.sp ≤ s.stackDepth ∧ ∃ op i, s.fetch = some op ∧ decodeOp s.cfg.gkOpcodes op = .ok i ∧ exec i s = .next t := by
  obtain ⟨hsp, h⟩ := State.whenSpInRange_next h
  cases hf : s.fetch with
  | none => rw [hf] at h; simp [raise] at h
  | some op =>
    rw [hf] at h
    obtain ⟨_, i, hd, hx⟩ := dispatch_next h
    exact ⟨hsp, op, i, rfl, hd, hx⟩

/-- A step that raises an error failed the fetch check, or its dispatch raised it. -/
theorem step_fault {s : State} {f : Fault} (h : step s = .fault f) :
    s.sp ≤ s.stackDepth ∧
      ((s.fetch = none ∧ f = .outOfRange s.pc.toNat) ∨ ∃ op, s.fetch = some op ∧ dispatch op s = .fault f) := by
  obtain ⟨hsp, h⟩ := State.whenSpInRange_fault h
  refine ⟨hsp, ?_⟩
  cases hf : s.fetch with
  | none => rw [hf] at h; simp only [raise] at h; exact .inl ⟨rfl, by cases h; rfl⟩
  | some op => rw [hf] at h; exact .inr ⟨op, rfl, h⟩

/-! ### Runs -/

/-- What every move keeps, every scheduled run keeps. -/
theorem runSchedule_keeps (P : State → Prop) (hstep : ∀ s t, P s → step s = .next t → P t)
    (hhost : ∀ e s, P s → P (HostStep.apply e s)) :
    ∀ (as : List Action) (s t : State), P s → runSchedule as s = .next t → P t := by
  intro as
  induction as with
  | nil => intro s t hs h; cases h; exact hs
  | cons a rest ih =>
    intro s t hs h
    cases a with
    | core =>
      simp only [runSchedule, Action.apply] at h
      cases hstp : step s with
      | next u => rw [hstp] at h; exact ih u t (hstep s u hs hstp) h
      | fault f => rw [hstp] at h; cases h
      | refused r => rw [hstp] at h; cases h
    | host e => exact ih _ t (hhost e s hs) h

end Sys2Proof.Machine
end

