-- ==== Sys2Proof/Laws/Exec.lean ====
section
/-!
SUPPORT. Everything `exec` can do, said once: when an instruction completes (`Ready`), the state it then leaves (`effect`), and
the error it raises otherwise (`errorOf`).
-/

namespace Sys2Proof.Machine

/-- When the instruction completes with a next state. -/
def Ready (i : Instr) (s : State) : Prop :=
  match i with
  | .sys _ => False
  | .ret => 0 < s.sp ∧ s.sp ≤ s.stackDepth
  | .callAddr _ => s.sp < s.stackDepth
  | .skpVx x | .sknpVx x => (s.getV x).toNat < 16
  | .ldBVx _ => s.index.toNat + 3 ≤ s.cfg.memSize
  | .ldMemVx x | .ldVxMem x => s.index.toNat + (x.val + 1) ≤ s.cfg.memSize
  | .drwVxVyNibble _ _ n => n.toNat = 0 ∨ s.index.toNat + n.toNat ≤ s.cfg.memSize
  | .cls | .jpAddr _ | .seVxByte .. | .sneVxByte .. | .seVxVy .. | .ldVxByte .. | .addVxByte .. | .ldVxVy ..
  | .orVxVy .. | .andVxVy .. | .xorVxVy .. | .addVxVy .. | .subVxVy .. | .shrVxVy .. | .subnVxVy .. | .shlVxVy ..
  | .sneVxVy .. | .ldIAddr _ | .jpV0Addr _ | .rndVxByte .. | .ldVxDt _ | .ldVxK _ | .ldDtVx _ | .ldStVx _ | .addIVx _
  | .ldFVx _ => True

/-- The skip of EX9E and EXA1 for a key number in range. -/
def skipOnKeyEffect (s : State) (x : RegIx) (down : Bool) : State :=
  match keyIndex (s.getV x) with
  | some k => s.skipIf (s.key k == down)
  | none => s

/-- The state a completed instruction leaves. -/
def effect (i : Instr) (s : State) : State :=
  match i with
  | .sys _ => s
  | .cls => (s.setDisp Display.clear).advance
  | .ret => s.pop
  | .jpAddr nnn => s.setPc (zextAddr nnn)
  | .callAddr nnn => s.push.setPc (zextAddr nnn)
  | .seVxByte x nn => s.skipIf (s.getV x == nn)
  | .sneVxByte x nn => s.skipIf (s.getV x != nn)
  | .seVxVy x y => s.skipIf (s.getV x == s.getV y)
  | .ldVxByte x nn => (s.setV x nn).advance
  | .addVxByte x nn => (s.setV x (s.getV x + nn)).advance
  | .ldVxVy x y => (s.setV x (s.getV y)).advance
  | .orVxVy x y => (s.setV x (s.getV x ||| s.getV y)).advance
  | .andVxVy x y => (s.setV x (s.getV x &&& s.getV y)).advance
  | .xorVxVy x y => (s.setV x (s.getV x ^^^ s.getV y)).advance
  | .addVxVy x y => (s.setResultAndFlag x (s.getV x + s.getV y) (carryOut (s.getV x) (s.getV y))).advance
  | .subVxVy x y => (s.setResultAndFlag x (s.getV x - s.getV y) (noBorrow (s.getV x) (s.getV y))).advance
  | .shrVxVy x y => (s.setResultAndFlag x (s.shiftOperand x y >>> 1) (lostRight (s.shiftOperand x y))).advance
  | .subnVxVy x y => (s.setResultAndFlag x (s.getV y - s.getV x) (noBorrow (s.getV y) (s.getV x))).advance
  | .shlVxVy x y => (s.setResultAndFlag x (s.shiftOperand x y <<< 1) (lostLeft (s.shiftOperand x y))).advance
  | .sneVxVy x y => s.skipIf (s.getV x != s.getV y)
  | .ldIAddr nnn => (s.setIndex (zextAddr nnn)).advance
  | .jpV0Addr nnn => s.setPc (zextAddr nnn + zextByte (s.getV 0))
  | .rndVxByte x nn => (s.setV x (s.randomByte &&& nn)).countDraw.advance
  | .drwVxVyNibble x y n =>
    ((s.setDisp (s.drawSprite x y n.toNat).disp).setV flagReg (flagByte (s.drawSprite x y n.toNat).collide)).advance
  | .skpVx x => skipOnKeyEffect s x true
  | .sknpVx x => skipOnKeyEffect s x false
  | .ldVxDt x => (s.setV x s.dt).advance
  | .ldVxK x =>
    match s.lowestKey with
    | some k => (s.setV x (BitVec.ofNat 8 k.val)).advance
    | none => s
  | .ldDtVx x => (s.setDt (s.getV x)).advance
  | .ldStVx x => (s.setSt (s.getV x)).advance
  | .addIVx x => (s.setIndex (s.index + zextByte (s.getV x))).advance
  | .ldFVx x => (s.setIndex (s.glyphAddress (s.getV x))).advance
  | .ldBVx x => (s.setBytes s.index.toNat (decimalDigits (s.getV x))).advance
  | .ldMemVx x => ((s.setBytes s.index.toNat (s.regsUpTo x)).setIndex (s.indexAfterTransfer x)).advance
  | .ldVxMem x =>
    ((s.setAllV (fun j => if j ≤ x then s.byteAt (s.index.toNat + j.val) else s.getV j)).setIndex
      (s.indexAfterTransfer x)).advance

/-- The error of an instruction that does not complete (of one that always completes, `none`). -/
def errorOf (i : Instr) (s : State) : Option Fault :=
  match i with
  | .sys nnn => some (.unsupportedInstruction (wordNNN 0x0 nnn))
  | .ret => some (.stackViolation .underflow 0x00EE)
  | .callAddr nnn => some (.stackViolation .overflow (wordNNN 0x2 nnn))
  | .skpVx x | .sknpVx x => some (.outOfRange (s.getV x).toNat)
  | .ldBVx _ | .ldMemVx _ | .ldVxMem _ | .drwVxVyNibble _ _ _ => some (.outOfRange (max s.index.toNat s.cfg.memSize))
  | .cls | .jpAddr _ | .seVxByte .. | .sneVxByte .. | .seVxVy .. | .ldVxByte .. | .addVxByte .. | .ldVxVy ..
  | .orVxVy .. | .andVxVy .. | .xorVxVy .. | .addVxVy .. | .subVxVy .. | .shrVxVy .. | .subnVxVy .. | .shlVxVy ..
  | .sneVxVy .. | .ldIAddr _ | .jpV0Addr _ | .rndVxByte .. | .ldVxDt _ | .ldVxK _ | .ldDtVx _ | .ldStVx _ | .addIVx _
  | .ldFVx _ => none

/-- An instruction that is ready answers its effect. -/
theorem exec_of_ready {i : Instr} {s : State} (h : Ready i s) : exec i s = .next (effect i s) := by
  cases i
  case sys => exact h.elim
  case ret => exact (State.whenSpInRange_of_le _ h.2).trans (if_neg (Nat.ne_of_gt h.1))
  case callAddr => exact (State.whenSpInRange_of_le _ (Nat.le_of_lt h)).trans (if_neg (Nat.ne_of_lt h))
  case skpVx x => exact (State.skipOnKey_of_lt true h).trans (by simp [effect, skipOnKeyEffect, keyIndex_of_lt h])
  case sknpVx x => exact (State.skipOnKey_of_lt false h).trans (by simp [effect, skipOnKeyEffect, keyIndex_of_lt h])
  case ldVxK x => simp only [exec, execLdVxK, effect]; cases s.lowestKey <;> rfl
  case ldBVx => exact State.whenSpanFits_of_fits _ (.inr h)
  case ldMemVx => exact State.whenSpanFits_of_fits _ (.inr h)
  case ldVxMem => exact State.whenSpanFits_of_fits _ (.inr h)
  case drwVxVyNibble => exact State.whenSpanFits_of_fits _ h
  all_goals rfl

/-- An instruction that is not ready, with sp in range, raises its error. -/
theorem exec_of_not_ready {i : Instr} {s : State} (hsp : s.sp ≤ s.stackDepth) (h : ¬ Ready i s) :
    ∃ f, errorOf i s = some f ∧ exec i s = .fault f := by
  cases i
  case sys nnn => exact ⟨_, rfl, rfl⟩
  case ret =>
    have h0 : s.sp = 0 := by simp only [Ready] at h; omega
    exact ⟨_, rfl, (State.whenSpInRange_of_le _ hsp).trans (if_pos h0)⟩
  case callAddr nnn =>
    have h0 : s.sp = s.stackDepth := by simp only [Ready] at h; omega
    exact ⟨_, rfl, (State.whenSpInRange_of_le _ hsp).trans (if_pos h0)⟩
  case skpVx x => exact ⟨_, rfl, State.skipOnKey_of_ge true (Nat.not_lt.mp h)⟩
  case sknpVx x => exact ⟨_, rfl, State.skipOnKey_of_ge false (Nat.not_lt.mp h)⟩
  case ldBVx => exact ⟨_, rfl, State.whenSpanFits_of_not_fits _ (by decide) (Nat.not_le.mp h)⟩
  case ldMemVx => exact ⟨_, rfl, State.whenSpanFits_of_not_fits _ (Nat.succ_ne_zero _) (Nat.not_le.mp h)⟩
  case ldVxMem => exact ⟨_, rfl, State.whenSpanFits_of_not_fits _ (Nat.succ_ne_zero _) (Nat.not_le.mp h)⟩
  case drwVxVyNibble =>
    simp only [Ready, not_or] at h
    exact ⟨_, rfl, State.whenSpanFits_of_not_fits _ h.1 (Nat.not_le.mp h.2)⟩
  all_goals exact absurd trivial h

/-- With sp outside its range only 2NNN and 00EE are not what they were: they are refused. -/
theorem exec_of_bad_sp {i : Instr} {s : State} (hsp : s.stackDepth < s.sp) (h : i = .ret ∨ ∃ nnn, i = .callAddr nnn) :
    exec i s = .refused (.stackPointerOutOfRange s.sp) := by
  rcases h with rfl | ⟨nnn, rfl⟩
  · exact State.whenSpInRange_of_gt _ hsp
  · exact State.whenSpInRange_of_gt _ hsp

/-- INVERSION: a next state of `exec` is the effect of an instruction that was ready. -/
theorem exec_next {i : Instr} {s t : State} (h : exec i s = .next t) : Ready i s ∧ t = effect i s := by
  have hr : Ready i s := by
    by_contra hn
    rcases Nat.lt_or_ge s.stackDepth s.sp with hsp | hsp
    · by_cases hi : i = .ret ∨ ∃ nnn, i = .callAddr nnn
      · rw [exec_of_bad_sp hsp hi] at h; cases h
      · cases i
        case sys => cases h
        case ret => exact hi (.inl rfl)
        case callAddr nnn => exact hi (.inr ⟨nnn, rfl⟩)
        case skpVx x => rw [exec, execSkpVx, State.skipOnKey_of_ge true (Nat.not_lt.mp hn)] at h; cases h
        case sknpVx x => rw [exec, execSknpVx, State.skipOnKey_of_ge false (Nat.not_lt.mp hn)] at h; cases h
        case ldBVx => exact hn ((State.whenSpanFits_next h).1.resolve_left (by decide))
        case ldMemVx => exact hn ((State.whenSpanFits_next h).1.resolve_left (Nat.succ_ne_zero _))
        case ldVxMem => exact hn ((State.whenSpanFits_next h).1.resolve_left (Nat.succ_ne_zero _))
        case drwVxVyNibble => exact hn (State.whenSpanFits_next h).1
        all_goals exact hn trivial
    · obtain ⟨f, _, hf⟩ := exec_of_not_ready hsp hn
      rw [hf] at h; cases h
  rw [exec_of_ready hr] at h
  exact ⟨hr, by cases h; rfl⟩

/-- INVERSION: an error of `exec`, with sp in range, is the error of an instruction that was not ready. -/
theorem exec_fault {i : Instr} {s : State} {f : Fault} (hsp : s.sp ≤ s.stackDepth) (h : exec i s = .fault f) :
    ¬ Ready i s ∧ errorOf i s = some f := by
  have hn : ¬ Ready i s := fun hr => by rw [exec_of_ready hr] at h; cases h
  obtain ⟨g, hg, he⟩ := exec_of_not_ready hsp hn
  rw [he] at h
  exact ⟨hn, by cases h; exact hg⟩

/-- With sp in range nothing is refused. -/
theorem exec_not_refused {i : Instr} {s : State} {r : Refusal} (hsp : s.sp ≤ s.stackDepth) : exec i s ≠ .refused r := by
  by_cases hr : Ready i s
  · rw [exec_of_ready hr]; simp
  · obtain ⟨f, _, hf⟩ := exec_of_not_ready hsp hr
    rw [hf]; simp

end Sys2Proof.Machine
end

