-- ==== Sys2Proof/Laws/PerInstr.lean ====
section
/-!
SUPPORT. The statement made per instruction: the opcode of an instruction lies in its row of spec/opcode_table.json.
-/

namespace Sys2Proof.Laws.Row

/-- The fixed bits of the instruction's row stand in its opcode (column "match" under column "mask"). -/
def Statement (i : Instr) : Prop := encode i &&& i.row.mask = i.row.value

theorem append_and_append {m n : Nat} (a c : BitVec m) (b d : BitVec n) : (a ++ b) &&& (c ++ d) = (a &&& c) ++ (b &&& d) := by
  ext i hi
  simp only [BitVec.getElem_and, BitVec.getElem_append]
  split <;> simp

theorem and_ones {w : Nat} (a : BitVec w) : a &&& BitVec.allOnes w = a := by simp

/-- The form F | NNN, decoded on F. -/
theorem wordNNN_and (f : Nibble) (nnn : Addr) : wordNNN f nnn &&& (BitVec.allOnes 4 ++ 0#12) = f ++ 0#12 := by
  rw [wordNNN, append_and_append, and_ones, BitVec.and_zero]

/-- The form F | X | NN, decoded on F. -/
theorem wordXNN_and (f : Nibble) (x : RegIx) (nn : Byte) :
    wordXNN f x nn &&& (BitVec.allOnes 4 ++ 0#4 ++ 0#8) = f ++ 0#4 ++ 0#8 := by
  rw [wordXNN, append_and_append, append_and_append, and_ones, BitVec.and_zero, BitVec.and_zero]

/-- The form F | X | NN, decoded on F and NN. -/
theorem wordXNN_and_low (f : Nibble) (x : RegIx) (nn : Byte) :
    wordXNN f x nn &&& (BitVec.allOnes 4 ++ 0#4 ++ BitVec.allOnes 8) = f ++ 0#4 ++ nn := by
  rw [wordXNN, append_and_append, append_and_append, and_ones, and_ones, BitVec.and_zero]

/-- The form F | X | Y | N, decoded on F and N. -/
theorem wordXYN_and (f : Nibble) (x y : RegIx) (n : Nibble) :
    wordXYN f x y n &&& (BitVec.allOnes 4 ++ 0#4 ++ 0#4 ++ BitVec.allOnes 4) = f ++ 0#4 ++ 0#4 ++ n := by
  rw [wordXYN, append_and_append, append_and_append, append_and_append, and_ones, and_ones, BitVec.and_zero,
    BitVec.and_zero]

/-- The form F | X | Y | N, decoded on F. -/
theorem wordXYN_and_high (f : Nibble) (x y : RegIx) (n : Nibble) :
    wordXYN f x y n &&& (BitVec.allOnes 4 ++ 0#4 ++ 0#4 ++ 0#4) = f ++ 0#4 ++ 0#4 ++ 0#4 := by
  rw [wordXYN, append_and_append, append_and_append, append_and_append, and_ones, BitVec.and_zero, BitVec.and_zero,
    BitVec.and_zero]

theorem sys (nnn : Addr) : Statement (.sys nnn) := (wordNNN_and ..)
theorem cls : Statement .cls := by unfold Statement; decide
theorem ret : Statement .ret := by unfold Statement; decide
theorem jpAddr (nnn : Addr) : Statement (.jpAddr nnn) := (wordNNN_and ..)
theorem callAddr (nnn : Addr) : Statement (.callAddr nnn) := (wordNNN_and ..)
theorem seVxByte (x : RegIx) (nn : Byte) : Statement (.seVxByte x nn) := (wordXNN_and ..)
theorem sneVxByte (x : RegIx) (nn : Byte) : Statement (.sneVxByte x nn) := (wordXNN_and ..)
theorem seVxVy (x y : RegIx) : Statement (.seVxVy x y) := (wordXYN_and ..)
theorem ldVxByte (x : RegIx) (nn : Byte) : Statement (.ldVxByte x nn) := (wordXNN_and ..)
theorem addVxByte (x : RegIx) (nn : Byte) : Statement (.addVxByte x nn) := (wordXNN_and ..)
theorem ldVxVy (x y : RegIx) : Statement (.ldVxVy x y) := (wordXYN_and ..)
theorem orVxVy (x y : RegIx) : Statement (.orVxVy x y) := (wordXYN_and ..)
theorem andVxVy (x y : RegIx) : Statement (.andVxVy x y) := (wordXYN_and ..)
theorem xorVxVy (x y : RegIx) : Statement (.xorVxVy x y) := (wordXYN_and ..)
theorem addVxVy (x y : RegIx) : Statement (.addVxVy x y) := (wordXYN_and ..)
theorem subVxVy (x y : RegIx) : Statement (.subVxVy x y) := (wordXYN_and ..)
theorem shrVxVy (x y : RegIx) : Statement (.shrVxVy x y) := (wordXYN_and ..)
theorem subnVxVy (x y : RegIx) : Statement (.subnVxVy x y) := (wordXYN_and ..)
theorem shlVxVy (x y : RegIx) : Statement (.shlVxVy x y) := (wordXYN_and ..)
theorem sneVxVy (x y : RegIx) : Statement (.sneVxVy x y) := (wordXYN_and ..)
theorem ldIAddr (nnn : Addr) : Statement (.ldIAddr nnn) := (wordNNN_and ..)
theorem jpV0Addr (nnn : Addr) : Statement (.jpV0Addr nnn) := (wordNNN_and ..)
theorem rndVxByte (x : RegIx) (nn : Byte) : Statement (.rndVxByte x nn) := (wordXNN_and ..)
theorem drwVxVyNibble (x y : RegIx) (n : Nibble) : Statement (.drwVxVyNibble x y n) := (wordXYN_and_high ..)
theorem skpVx (x : RegIx) : Statement (.skpVx x) := (wordXNN_and_low ..)
theorem sknpVx (x : RegIx) : Statement (.sknpVx x) := (wordXNN_and_low ..)
theorem ldVxDt (x : RegIx) : Statement (.ldVxDt x) := (wordXNN_and_low ..)
theorem ldVxK (x : RegIx) : Statement (.ldVxK x) := (wordXNN_and_low ..)
theorem ldDtVx (x : RegIx) : Statement (.ldDtVx x) := (wordXNN_and_low ..)
theorem ldStVx (x : RegIx) : Statement (.ldStVx x) := (wordXNN_and_low ..)
theorem addIVx (x : RegIx) : Statement (.addIVx x) := (wordXNN_and_low ..)
theorem ldFVx (x : RegIx) : Statement (.ldFVx x) := (wordXNN_and_low ..)
theorem ldBVx (x : RegIx) : Statement (.ldBVx x) := (wordXNN_and_low ..)
theorem ldMemVx (x : RegIx) : Statement (.ldMemVx x) := (wordXNN_and_low ..)
theorem ldVxMem (x : RegIx) : Statement (.ldVxMem x) := (wordXNN_and_low ..)

end Sys2Proof.Laws.Row
end

