-- ==== Sys2Proof/Tests/Slice0.lean ====
section
/-!
SUPPORT. Tests. Expected results are those of spec/95_test_vectors.md (its section and row named with each test) or of the
rule's own example. Then one witness for each obligation that has hypotheses: a concrete state and operands that meet them
together, for each clause, at the bounds of its range.
-/

open Sys2Proof Sys2Proof.Machine

namespace Sys2Proof.Slice0

/-- The state an instruction leaves, if it completes. -/
def after (i : Instr) (s : State) : Option State :=
  match exec i s with
  | .next t => some t
  | .fault _ => none
  | .refused _ => none

/-- The error of an outcome, if it is one. -/
def errorIn (o : Host.Outcome State Fault Refusal) : Option Fault :=
  match o with
  | .next _ => none
  | .fault f => some f
  | .refused _ => none

/-- The error an instruction raises, if it does. -/
def errorAfter (i : Instr) (s : State) : Option Fault := errorIn (exec i s)

/-- Is the outcome a next state. -/
def goesOn (o : Host.Outcome State Fault Refusal) : Bool :=
  match o with
  | .next _ => true
  | .fault _ => false
  | .refused _ => false

/-- The reset machine with registers set. -/
def withRegs (rs : List (RegIx × Byte)) : State := rs.foldl (fun s r => s.setV r.1 r.2) State.reset

/-- The reset machine with bytes in memory and I at them. -/
def withBytes (a : Word) (bs : List Byte) : State := (State.reset.setBytes a.toNat bs).setIndex a

/-- The reset machine with other parameters. -/
def withCfg (c : Config) (s : State) : State := { s with cfg := c }

/-- The display with exactly these cells set. -/
def lit (ks : List Nat) : Display := ks.foldl (fun d k => Display.flip d k) Display.clear

/-- pc moved by so many bytes from the reset machine's. -/
def pcMoved (t : Option State) : Option Nat := t.map (fun t => t.pc.toNat - 0x200)

end Sys2Proof.Slice0

open Sys2Proof.Slice0

/-! ### Well-formed instructions (spec/30_encoding.md rule R76) -/

/-- 00E0 and 00EE are never SYS; their neighbours are. -/
theorem test_wf_sys : (Instr.sys 0x0E0).wf = false ∧ (Instr.sys 0x0EE).wf = false ∧ (Instr.sys 0x0E1).wf = true ∧
    (Instr.sys 0x000).wf = true := by decide

/-- The ill-formed terms are refused by the round trip: their opcodes are CLS and RET. -/
theorem test_wf_sys_words : decodeOp true (encode (.sys 0x0E0)) = .ok .cls ∧ decodeOp true (encode (.sys 0x0EE)) = .ok .ret := by
  decide

/-- The GK gate (R77). -/
theorem test_admitted : (Instr.ldIAddr 0).admitted false = false ∧ (Instr.ldIAddr 0).admitted true = true ∧
    (Instr.addVxVy 1 2).admitted false = true := by decide

/-! ### Words written out bit by bit from spec/30_encoding.md rules R70 and R75 -/

theorem test_decode_family0 : decodeOp true 0b0000_0001_0010_0011 = .ok (.sys 0x123) ∧
    decodeOp true 0b0000_0000_1110_0000 = .ok .cls ∧ decodeOp true 0b0000_0000_1110_1110 = .ok .ret := by decide

theorem test_decode_jump_call : decodeOp true 0b0001_1010_1011_1100 = .ok (.jpAddr 0xABC) ∧
    decodeOp true 0b0010_0100_0000_0001 = .ok (.callAddr 0x401) ∧
    decodeOp true 0b1011_0011_0000_0010 = .ok (.jpV0Addr 0x302) := by decide

theorem test_decode_skip : decodeOp true 0b0011_0101_1111_1110 = .ok (.seVxByte 5 0xFE) ∧
    decodeOp true 0b0100_0101_0111_1111 = .ok (.sneVxByte 5 0x7F) ∧
    decodeOp true 0b0101_0001_0010_0000 = .ok (.seVxVy 1 2) ∧
    decodeOp true 0b1001_0001_0010_0000 = .ok (.sneVxVy 1 2) ∧
    decodeOp true 0b1110_0011_1001_1110 = .ok (.skpVx 3) ∧
    decodeOp true 0b1110_0011_1010_0001 = .ok (.sknpVx 3) := by decide

theorem test_decode_load_add : decodeOp true 0b0110_1010_0101_1100 = .ok (.ldVxByte 0xA 0x5C) ∧
    decodeOp true 0b0111_0010_0010_0000 = .ok (.addVxByte 2 0x20) := by decide

theorem test_decode_alu : decodeOp true 0b1000_0001_0010_0000 = .ok (.ldVxVy 1 2) ∧
    decodeOp true 0b1000_0001_0010_0001 = .ok (.orVxVy 1 2) ∧ decodeOp true 0b1000_0001_0010_0010 = .ok (.andVxVy 1 2) ∧
    decodeOp true 0b1000_0001_0010_0011 = .ok (.xorVxVy 1 2) ∧ decodeOp true 0b1000_0001_0010_0100 = .ok (.addVxVy 1 2) ∧
    decodeOp true 0b1000_0001_0010_0101 = .ok (.subVxVy 1 2) ∧ decodeOp true 0b1000_0001_0010_0110 = .ok (.shrVxVy 1 2) ∧
    decodeOp true 0b1000_0001_0010_0111 = .ok (.subnVxVy 1 2) ∧ decodeOp true 0b1000_0001_0010_1110 = .ok (.shlVxVy 1 2) := by
  decide

theorem test_decode_index_memory : decodeOp true 0b1010_0010_1111_0000 = .ok (.ldIAddr 0x2F0) ∧
    decodeOp true 0b1111_0101_0001_1110 = .ok (.addIVx 5) ∧ decodeOp true 0b1111_0010_0010_1001 = .ok (.ldFVx 2) ∧
    decodeOp true 0b1111_0000_0011_0011 = .ok (.ldBVx 0) ∧ decodeOp true 0b1111_0001_0101_0101 = .ok (.ldMemVx 1) ∧
    decodeOp true 0b1111_0010_0110_0101 = .ok (.ldVxMem 2) := by decide

theorem test_decode_random_timers_keys_draw : decodeOp true 0b1100_0011_0000_1111 = .ok (.rndVxByte 3 0x0F) ∧
    decodeOp true 0b1111_0100_0000_0111 = .ok (.ldVxDt 4) ∧ decodeOp true 0b1111_0010_0000_1010 = .ok (.ldVxK 2) ∧
    decodeOp true 0b1111_0001_0001_0101 = .ok (.ldDtVx 1) ∧ decodeOp true 0b1111_0001_0001_1000 = .ok (.ldStVx 1) ∧
    decodeOp true 0b1101_0000_1111_0001 = .ok (.drwVxVyNibble 0 0xF 1) := by decide

/-- Section 2.2: the unassigned words. -/
theorem test_unmapped : decodeOp true 0x5121 = .error (.unmapped 0x5121) ∧ decodeOp true 0x8128 = .error (.unmapped 0x8128) ∧
    decodeOp true 0x812F = .error (.unmapped 0x812F) ∧ decodeOp true 0x9121 = .error (.unmapped 0x9121) ∧
    decodeOp true 0xE19F = .error (.unmapped 0xE19F) ∧ decodeOp true 0xF1FF = .error (.unmapped 0xF1FF) ∧
    decodeOp false 0xA123 = .error (.unmapped 0xA123) ∧ decodeOp false 0x8124 = .ok (.addVxVy 1 2) := by decide

/-- Section 1 S1 and section 2.1: the extractor. -/
theorem test_extractor : lastNQuadbits 0x1234 2 = 0x0034 ∧ xRegister 0x1234 = 2 ∧ yRegister 0x1234 = 3 ∧
    lastNQuadbits 0xABCD 0 = 0 ∧ lastNQuadbits 0xABCD 3 = 0x0BCD ∧ lastNQuadbits 0xABCD 4 = 0xABCD ∧
    xRegister 0xF0F0 = 0 ∧ yRegister 0xF0F0 = 0xF := by decide

/-- The decoder takes two bytes, the high one first, and leaves the rest (R55, R73). -/
theorem test_decode_bytes : decode true [0xA2, 0x2A, 0x12] = .ok (.ldIAddr 0x22A, [0x12]) ∧
    decode true [0xA2] = .error .truncated := by decide

theorem test_decodeTableWord : decodeTableWord 16 0x2401 = some (.callAddr 0x401) ∧ decodeTableWord 16 0x5121 = none := by
  decide

/-! ### Fetch and step -/

/-- Section 2.2: fetch at the end of memory, past it, and at an odd address. -/
theorem test_fetch : ((State.reset.setBytes 0xFFE [0x12, 0x34]).setPc 0xFFE).fetch = some 0x1234 ∧
    (State.reset.setPc 0xFFF).fetch = none ∧ ((State.reset.setBytes 0x201 [0xA2, 0x2A]).setPc 0x201).fetch = some 0xA22A := by
  decide

/-- The step runs the word the host places: S2 of section 1. -/
theorem test_step_placed : step (State.reset.withFetchWord 16 0x2400) =
    exec (.callAddr 0x400) (State.reset.withFetchWord 16 0x2400) := rfl

/-- Section 2.2: 0x0000, which blank memory holds, is unsupported; and a fetch past memory is out of range. -/
theorem test_step_errors : errorIn (step State.reset) = some (.unsupportedInstruction 0x0000) ∧
    errorIn (step (State.reset.setPc 0xFFF)) = some (.outOfRange 0xFFF) := by decide

/-- Section 2.2: the errors as the caller sees them, with the state unchanged. -/
theorem test_transact_errors : transact 0x0FFF State.reset = .err ⟨1, none, 0x0FFF⟩ State.reset ∧
    transact 0x812F State.reset = .err ⟨2, none, 0x812F⟩ State.reset ∧
    transact 0x00EE State.reset = .err ⟨3, some 2, 0x00EE⟩ State.reset := by decide

/-- R204: a preset sp beyond the depth has no step. -/
theorem test_step_refused : step { State.reset with sp := 17 } = .refused (.stackPointerOutOfRange 17) := rfl

/-! ### Family 0, jumps and calls (section 2.3) -/

theorem test_sys : errorAfter (.sys 0x123) State.reset = some (.unsupportedInstruction 0x0123) := by decide

theorem test_cls : (after .cls ((State.reset.setPc 0x300).setDisp (lit [0, 2047]))).map (fun t => (t.disp, t.pc)) =
    some (lit [], 0x302) := by decide

theorem test_ret : (after .ret { State.reset with sp := 3, stack := State.reset.stack.set 2 0x2A4 }).map
    (fun t => (t.sp, t.pc, t.stack.getD 2 0)) = some (2, 0x2A4, 0x2A4) := by decide

theorem test_ret_underflow : errorAfter .ret State.reset = some (.stackViolation .underflow 0x00EE) := by decide

theorem test_jp : (after (.jpAddr 0xFFF) (State.reset.setPc 0x250)).map State.pc = some 0x0FFF := by decide

theorem test_call : (after (.callAddr 0x300) { State.reset with pc := 0x250, sp := 15 }).map
    (fun t => (t.stack.getD 15 0, t.sp, t.pc)) = some (0x250, 16, 0x300) := by decide

theorem test_call_overflow : errorAfter (.callAddr 0x300) { State.reset with pc := 0x250, sp := 16 } =
    some (.stackViolation .overflow 0x2300) := by decide

theorem test_jpV0 : (after (.jpV0Addr 0xFFF) (withRegs [(0, 0xFF)])).map State.pc = some 0x10FE ∧
    (after (.jpV0Addr 0x510) (withRegs [(5, 0x20)])).map State.pc = some 0x0510 := by decide

/-! ### Skips (section 2.4) -/

theorem test_seVxByte : pcMoved (after (.seVxByte 5 0xFF) (withRegs [(5, 0xFF)])) = some 4 ∧
    pcMoved (after (.seVxByte 5 0xFE) (withRegs [(5, 0xFF)])) = some 2 := by decide

/-- The wrap of pc, the dispatch alone. -/
theorem test_seVxByte_wrap : (after (.seVxByte 0 0x00) (State.reset.setPc 0xFFFE)).map State.pc = some 0x0002 := by decide

theorem test_sneVxByte : pcMoved (after (.sneVxByte 5 0x00) State.reset) = some 2 ∧
    pcMoved (after (.sneVxByte 5 0xFF) State.reset) = some 4 := by decide

theorem test_seVxVy : pcMoved (after (.seVxVy 1 2) (withRegs [(1, 0x7F), (2, 0x7F)])) = some 4 ∧
    pcMoved (after (.seVxVy 1 2) (withRegs [(2, 0xFF)])) = some 2 := by decide

theorem test_sneVxVy : pcMoved (after (.sneVxVy 1 2) (withRegs [(1, 1), (2, 2)])) = some 4 ∧
    pcMoved (after (.sneVxVy 3 3) (withRegs [(3, 9)])) = some 2 := by decide

theorem test_skp : pcMoved (after (.skpVx 3) ((withRegs [(3, 0xA)]).setKey 0xA true)) = some 4 ∧
    pcMoved (after (.skpVx 3) (withRegs [(3, 0xA)])) = some 2 := by decide

theorem test_skp_range : errorAfter (.skpVx 3) (withRegs [(3, 0x10)]) = some (.outOfRange 0x10) := by decide

theorem test_sknp : pcMoved (after (.sknpVx 3) ((withRegs [(3, 0xA)]).setKey 0xA true)) = some 2 ∧
    pcMoved (after (.sknpVx 3) (withRegs [(3, 0xA)])) = some 4 := by decide

/-! ### Immediate load and add (section 2.5) -/

theorem test_ldVxByte : (after (.ldVxByte 0xA 0x5C) State.reset).map (fun t => (t.getV 0xA, t.pc)) = some (0x5C, 0x202) := by
  decide

theorem test_addVxByte : (after (.addVxByte 2 0x01) (withRegs [(2, 0xFF), (15, 0x33)])).map (fun t => (t.getV 2, t.getV 15)) =
    some (0x00, 0x33) := by decide

/-! ### The register ALU (section 2.6) -/

theorem test_ldVxVy : (after (.ldVxVy 0 1) (withRegs [(1, 0xAB)])).map (fun t => (t.getV 0, t.getV 1)) = some (0xAB, 0xAB) := by
  decide

theorem test_or : (after (.orVxVy 0 1) (withRegs [(0, 0x10), (1, 0x11)])).map (State.getV · 0) = some 0x11 := by decide

/-- D15: VF is kept. -/
theorem test_or_keeps_VF : (after (.orVxVy 0 1) (withRegs [(15, 0x01)])).map (State.getV · 15) = some 0x01 := by decide

theorem test_and : (after (.andVxVy 0 1) (withRegs [(0, 0x10), (1, 0x11)])).map (State.getV · 0) = some 0x10 := by decide

/-- S6 of section 1. -/
theorem test_xor : (after (.xorVxVy 0 1) (withRegs [(0, 0x10), (1, 0x11)])).map (fun t => (t.getV 0, t.getV 1)) =
    some (0x01, 0x11) := by decide

theorem test_add : (after (.addVxVy 0 1) (withRegs [(0, 0xFF), (1, 0x01)])).map (fun t => (t.getV 0, t.getV 15)) = some (0x00, 1) ∧
    (after (.addVxVy 0 1) (withRegs [(0, 0x7F), (1, 0x01)])).map (fun t => (t.getV 0, t.getV 15)) = some (0x80, 0) := by decide

/-- D12: the flag wins in VF; and VF as source is the old VF. -/
theorem test_add_VF : (after (.addVxVy 15 1) (withRegs [(15, 0x01), (1, 0x01)])).map (State.getV · 15) = some 0 ∧
    (after (.addVxVy 1 15) (withRegs [(15, 0xFF), (1, 0x01)])).map (fun t => (t.getV 1, t.getV 15)) = some (0x00, 1) := by decide

theorem test_sub : (after (.subVxVy 1 2) (withRegs [(1, 0x01), (2, 0x05)])).map (fun t => (t.getV 1, t.getV 15)) = some (0xFC, 0) ∧
    (after (.subVxVy 1 2) (withRegs [(1, 0x05), (2, 0x05)])).map (fun t => (t.getV 1, t.getV 15)) = some (0x00, 1) := by decide

theorem test_subn : (after (.subnVxVy 1 2) (withRegs [(1, 0x05), (2, 0x01)])).map (fun t => (t.getV 1, t.getV 15)) = some (0xFC, 0) ∧
    (after (.subnVxVy 1 2) (withRegs [(1, 0x01), (2, 0x05)])).map (fun t => (t.getV 1, t.getV 15)) = some (0x04, 1) := by decide

theorem test_shr : (after (.shrVxVy 1 2) (withRegs [(1, 0x81), (2, 0x02)])).map (fun t => (t.getV 1, t.getV 15)) = some (0x40, 1) ∧
    (after (.shrVxVy 15 0) (withRegs [(15, 0x03)])).map (State.getV · 15) = some 1 := by decide

/-- SHIFT_SRC = VY. -/
theorem test_shr_vy : (after (.shrVxVy 1 2) (withCfg { defaultConfig with shiftSrc := .vy } (withRegs [(2, 0x03)]))).map
    (fun t => (t.getV 1, t.getV 2, t.getV 15)) = some (0x01, 0x03, 1) := by decide

theorem test_shl : (after (.shlVxVy 3 0) (withRegs [(3, 0x81)])).map (fun t => (t.getV 3, t.getV 15)) = some (0x02, 1) ∧
    (after (.shlVxVy 0 0) (withRegs [(0, 0x7F)])).map (fun t => (t.getV 0, t.getV 15)) = some (0xFE, 0) := by decide

/-- SHIFT_SRC = VY. -/
theorem test_shl_vy : (after (.shlVxVy 1 2) (withCfg { defaultConfig with shiftSrc := .vy } (withRegs [(2, 0xC0)]))).map
    (fun t => (t.getV 1, t.getV 15)) = some (0x80, 1) := by decide

/-! ### Index register and memory (section 2.7) -/

theorem test_ldI : (after (.ldIAddr 0x2F0) State.reset).map State.index = some 0x02F0 := by decide

theorem test_addI : (after (.addIVx 5) ((withRegs [(5, 0x01), (15, 0x07)]).setIndex 0xFFFF)).map (fun t => (t.index, t.getV 15)) =
    some (0x0000, 0x07) := by decide

theorem test_ldF : (after (.ldFVx 2) (withRegs [(2, 0x1B)])).map State.index = some 0x0037 := by decide

theorem test_ldB : (after (.ldBVx 0) ((withRegs [(0, 0x7B)]).setIndex 0xFFD)).map
    (fun t => (t.byteAt 0xFFD, t.byteAt 0xFFE, t.byteAt 0xFFF)) = some (1, 2, 3) := by decide

theorem test_ldB_range : errorAfter (.ldBVx 0) ((withRegs [(0, 0x7B)]).setIndex 0xFFE) = some (.outOfRange 0x1000) := by decide

theorem test_ldMem : (after (.ldMemVx 1) ((withRegs [(0, 0x11), (1, 0x22), (2, 0x33)]).setIndex 0x300)).map
    (fun t => (t.mem, t.index)) = some ([(0x300, 0x11), (0x301, 0x22)], 0x300) := by decide

/-- LDST_INC_I = true, and the bound. -/
theorem test_ldMem_inc_and_range : (after (.ldMemVx 1) (withCfg { defaultConfig with ldstIncI := true }
      ((withRegs [(0, 0x11), (1, 0x22)]).setIndex 0x300))).map State.index = some 0x302 ∧
    errorAfter (.ldMemVx 15) (State.reset.setIndex 0xFF1) = some (.outOfRange 0x1000) := by decide

theorem test_ldVxMem : (after (.ldVxMem 2) (withBytes 0x300 [1, 2, 3, 4])).map
    (fun t => (t.getV 0, t.getV 1, t.getV 2, t.getV 3, t.index)) = some (1, 2, 3, 0, 0x300) := by decide

/-- LDST_INC_I = true, and the bound. -/
theorem test_ldVxMem_inc_and_range : (after (.ldVxMem 2) (withCfg { defaultConfig with ldstIncI := true }
      (withBytes 0x300 [1, 2, 3]))).map State.index = some 0x303 ∧
    errorAfter (.ldVxMem 0) (State.reset.setIndex 0x1000) = some (.outOfRange 0x1000) := by decide

/-! ### Random, timers, keys (section 2.8) -/

/-- Whatever byte the oracle gives: the mask 0 leaves 0, and pc advances. -/
theorem test_rnd : (after (.rndVxByte 0 0x00) (withRegs [(0, 0x55)])).map (fun t => (t.getV 0, t.pc, t.draws)) =
    some (0x00, 0x202, 1) := by
  simp [after, exec, execRndVxByte, State.getV, State.setV, State.countDraw, State.advance]
  decide

theorem test_ldVxDt : (after (.ldVxDt 4) (State.reset.setDt 0x3C)).map (State.getV · 4) = some 0x3C := by decide

theorem test_ldVxK : (after (.ldVxK 2) ((State.reset.setKey 9 true).setKey 5 true)).map (fun t => (t.getV 2, t.pc)) =
    some (0x05, 0x202) := by decide

/-- No key pressed: nothing changes. -/
theorem test_ldVxK_wait : after (.ldVxK 2) (State.reset.setPc 0x220) = some (State.reset.setPc 0x220) := by decide

theorem test_ldDt : (after (.ldDtVx 1) (withRegs [(1, 0x3C)])).map (fun t => (t.dt, t.st)) = some (0x3C, 0) := by decide

theorem test_ldSt : (after (.ldStVx 1) (withRegs [(1, 0x02)])).map (fun t => (t.dt, t.st)) = some (0, 0x02) := by decide

/-! ### Draw (section 2.9) -/

/-- Wrap at the right edge, no collision. -/
theorem test_drw_wrap : (after (.drwVxVyNibble 0 1 1) ((withBytes 0x300 [0xF0]).setV 0 0x3E)).map
    (fun t => (t.disp, t.getV 15)) = some (lit [0, 1, 62, 63], 0) := by decide

/-- Clip at the right edge, and a collision in the first cell. -/
theorem test_drw_clip_collision : (after (.drwVxVyNibble 0 1 1) (withCfg { defaultConfig with drawEdge := .clip }
    (((withBytes 0x300 [0xF0]).setV 0 0x3E).setDisp (lit [62])))).map (fun t => (t.disp, t.getV 15)) = some (lit [63], 1) := by decide

/-! ### Collaborators (section 2.8; spec/70_reset_and_hazards.md rules R232 to R236) -/

theorem test_timerTick : ((State.reset.setDt 1).timerTick.dt, (State.reset.setSt 5).timerTick.st, State.reset.timerTick.dt,
    (State.reset.setDt 0xFF).timerTick.timerTick.timerTick.dt) = (0, 4, 0, 0xFC) := by decide

theorem test_loader : (State.reset.loadBytes 0x200 [0x60, 0x07]).byteAt 0x201 = 0x07 ∧ fontBytes.getD 0x37 0 = 0xE0 ∧
    fontBytes.getD 0x4F 0 = 0x80 ∧ (State.reset.loadBytes 0xFFF [1, 2]).mem = [(0xFFF, 1)] := by decide

/-- A jump to itself is an end of run (R236). -/
theorem test_finished : (State.reset.withFetchWord 16 0x1200).finished = true ∧
    (State.reset.withFetchWord 16 0x1202).finished = false ∧ State.reset.finished = false := by decide

/-! ### Memory in canonical form -/

/-- Writing the blank byte removes the entry, and the order of writes does not matter. -/
theorem test_memory_canonical :
    ((State.reset.setByte 5 1).setByte 5 0).mem = [] ∧
    ((State.reset.setByte 5 1).setByte 3 2).mem = ((State.reset.setByte 3 2).setByte 5 1).mem := by decide

theorem test_reset_inv : State.reset.Inv := by decide

/-! ### Witnesses: the hypotheses of each obligation met together -/

theorem test_meets_DecodeOfEncodeIsInstruction : (Instr.sys 0x0E1).wf = true ∧ (Instr.sys 0x0E1).admitted false = true ∧
    (Instr.drwVxVyNibble 15 15 15).wf = true ∧ (Instr.drwVxVyNibble 15 15 15).admitted true = true := by decide

/-- Also for `DecodedOpcodeLiesInItsRow`. -/
theorem test_meets_EncodeOfDecodeIsOpcode : decodeOp true 0xDFFF = .ok (.drwVxVyNibble 15 15 15) ∧
    decodeOp false 0x0000 = .ok (.sys 0x000) := by decide

/-- One word at a bound of each clause, and SYS at both ends. -/
theorem test_meets_UnassignedOpcodesAreUnmapped : decodeOp true 0x5001 = .error (.unmapped 0x5001) ∧
    decodeOp true 0x8FF8 = .error (.unmapped 0x8FF8) ∧ decodeOp true 0x800F = .error (.unmapped 0x800F) ∧
    decodeOp false 0x9000 = .error (.unmapped 0x9000) ∧ decodeOp false 0xFF65 = .error (.unmapped 0xFF65) ∧
    decodeOp true 0x900F = .error (.unmapped 0x900F) ∧ decodeOp true 0xE09F = .error (.unmapped 0xE09F) ∧
    decodeOp true 0xFFFF = .error (.unmapped 0xFFFF) ∧ decodeOp true 0x0000 = .ok (.sys 0x000) ∧
    decodeOp true 0x0FFF = .ok (.sys 0xFFF) := by decide

/-- The last pc that can be fetched at. -/
theorem test_meets_StepRunsDecodedInstruction : let s := (State.reset.setBytes 0xFFE [0x60, 0x07]).setPc 0xFFE
    s.sp ≤ s.stackDepth ∧ s.pc.toNat + 1 < s.cfg.memSize ∧
    decode s.cfg.gkOpcodes [s.byteAt s.pc.toNat, s.byteAt (s.pc.toNat + 1)] = .ok (.ldVxByte 0 0x07, []) := by decide

/-- Both clauses, at the bound between them. -/
theorem test_meets_FetchChecksRange : State.reset.sp ≤ State.reset.stackDepth ∧
    (State.reset.setPc 0xFFE).pc.toNat + 1 < (State.reset.setPc 0xFFE).cfg.memSize ∧
    (State.reset.setPc 0xFFF).cfg.memSize ≤ (State.reset.setPc 0xFFF).pc.toNat + 1 := by decide

/-- Both sides of the bound. -/
theorem test_meets_RefusedExactlyWhenSpOutOfRange : State.reset.stackDepth < ({ State.reset with sp := 17 } : State).sp ∧
    ¬ State.reset.stackDepth < ({ State.reset with sp := 16 } : State).sp := by decide

/-- A step that raises each error. -/
theorem test_meets_StepErrorCauses : State.reset.sp ≤ State.reset.stackDepth ∧
    errorIn (step (State.reset.setPc 0xFFF)) = some (.outOfRange 0xFFF) ∧
    errorIn (step (State.reset.withFetchWord 16 0x5001)) = some (.unmappedInstruction 0x5001) ∧
    errorIn (step (State.reset.withFetchWord 16 0x00E1)) = some (.unsupportedInstruction 0x00E1) ∧
    errorIn (step (State.withFetchWord { State.reset with sp := 16 } 16 0x2300)) = some (.stackViolation .overflow 0x2300) ∧
    errorIn (step (State.reset.withFetchWord 16 0x00EE)) = some (.stackViolation .underflow 0x00EE) ∧
    errorIn (step ((withRegs [(3, 16)]).withFetchWord 16 0xE3A1)) = some (.outOfRange 16) ∧
    errorIn (step ((State.reset.setIndex 0xFFE).withFetchWord 16 0xF033)) = some (.outOfRange 0x1000) ∧
    errorIn (step ((State.reset.setIndex 0xFF1).withFetchWord 16 0xFF55)) = some (.outOfRange 0x1000) ∧
    errorIn (step ((State.reset.setIndex 0x1001).withFetchWord 16 0xF065)) = some (.outOfRange 0x1001) ∧
    errorIn (step ((State.reset.setIndex 0xFFF).withFetchWord 16 0xD012)) = some (.outOfRange 0x1000) := by decide

/-- A report of each kind. -/
theorem test_meets_ErrorReturnsStateUnchanged : transact 0x0000 State.reset = .err ⟨1, none, 0⟩ State.reset ∧
    transact 0x5001 State.reset = .err ⟨2, none, 0x5001⟩ State.reset ∧
    transact 0x2300 { State.reset with sp := 16 } = .err ⟨3, some 1, 0x2300⟩ { State.reset with sp := 16 } ∧
    transact 0x00EE State.reset = .err ⟨3, some 2, 0x00EE⟩ State.reset ∧
    transact 0xF065 (State.reset.setIndex 0x1000) = .err ⟨4, none, 0x1000⟩ (State.reset.setIndex 0x1000) ∧
    transact 0xF033 (State.reset.setIndex 0xFFE) = .err ⟨4, none, 0x1000⟩ (State.reset.setIndex 0xFFE) ∧
    transact 0xD012 (State.reset.setIndex 0xFFF) = .err ⟨4, none, 0x1000⟩ (State.reset.setIndex 0xFFF) ∧
    transact 0xE39E (withRegs [(3, 16)]) = .err ⟨4, none, 16⟩ (withRegs [(3, 16)]) := by decide

/-- A store at the end of memory. Also for `StepKeepsParametersAndKeys`. -/
theorem test_meets_StepKeepsTheInvariant : let s := ((withRegs [(0, 0x55)]).setIndex 0xFFF).withFetchWord 16 0xF055
    s.Inv ∧ goesOn (step s) = true := by decide

theorem test_meets_ScheduledRunKeepsTheInvariant : let s := State.reset.withFetchWord 16 0x2400
    s.Inv ∧ goesOn (runSchedule [.host (.keyWrite 0xA true), .core, .host .timerTick, .host .render] s) = true := by decide

/-- An image that ends with memory, a font that ends where the image begins, and a font that begins where the image ends. -/
theorem test_meets_BootLoadsImageAndFont : (0xFFE : Word).toNat + [0x12, 0x34].length ≤ defaultConfig.memSize ∧
    ((0x050 : Word).toNat + [0x12, 0x34].length ≤ defaultConfig.memSize ∧ defaultConfig.fontBase + 80 ≤ (0x050 : Word).toNat) ∧
    (let c : Config := { defaultConfig with fontBase := 0x202 }
     (0x200 : Word).toNat + [0x12, 0x34].length ≤ c.fontBase ∧ c.fontBase + 80 ≤ c.memSize) := by decide

/-- The two instructions that move the stack. -/
theorem test_meets_OnlyCallAndReturnMoveTheStack : goesOn (exec (.callAddr 0x300) State.reset) = true ∧
    goesOn (exec .ret { State.reset with sp := 16 }) = true := by decide

theorem test_meets_OnlyListedInstructionsWriteDisplayAndTimers :
    (after .cls (State.reset.setDisp (lit [2047]))).map (State.cell · 2047) = some false ∧
    (State.reset.setDisp (lit [2047])).cell 2047 = true ∧
    (after (.ldDtVx 0) (withRegs [(0, 9)])).map State.dt = some 9 ∧ (withRegs [(0, 9)]).dt = 0 ∧
    (after (.ldStVx 0) (withRegs [(0, 9)])).map State.st = some 9 ∧ (withRegs [(0, 9)]).st = 0 := by decide

/-- Each of the writers of I. -/
theorem test_meets_OnlyListedInstructionsWriteIndex :
    (after (.ldIAddr 0xFFF) State.reset).map State.index = some 0xFFF ∧
    (after (.addIVx 0) (withRegs [(0, 9)])).map State.index = some 9 ∧
    (after (.ldFVx 0) (withRegs [(0, 1)])).map State.index = some 5 ∧
    (after (.ldMemVx 0) (withCfg { defaultConfig with ldstIncI := true } State.reset)).map State.index = some 1 ∧
    (after (.ldVxMem 0) (withCfg { defaultConfig with ldstIncI := true } State.reset)).map State.index = some 1 ∧
    State.reset.index = 0 := by decide

theorem test_meets_OnlyStoresWriteMemory :
    (after (.ldBVx 0) ((withRegs [(0, 9)]).setIndex 0xFFD)).map (State.byteAt · 0xFFF) = some 9 ∧
    (after (.ldMemVx 0) ((withRegs [(0, 9)]).setIndex 0xFFF)).map (State.byteAt · 0xFFF) = some 9 ∧
    State.reset.byteAt 0xFFF = 0 := by decide

/-- V[X], V[0] below X, and VF. -/
theorem test_meets_OnlyListedInstructionsWriteRegisters :
    (after (.ldVxByte 15 9) State.reset).map (State.getV · 15) = some 9 ∧
    (after (.ldVxMem 15) (withBytes 0xFF0 [9])).map (State.getV · 0) = some 9 ∧
    (after (.subVxVy 0 1) State.reset).map (State.getV · 15) = some 1 ∧ State.reset.getV 15 = 0 := by decide

/-- Each of the ways: normal, skip, set, and unchanged. -/
theorem test_meets_EachInstructionLeavesPcInOneOfFourWays :
    (after .cls State.reset).map State.pc = some 0x202 ∧ (after (.seVxByte 0 0) State.reset).map State.pc = some 0x204 ∧
    (after (.jpV0Addr 0xFFF) (withRegs [(0, 0xFF)])).map State.pc = some 0x10FE ∧
    (after (.ldVxK 0) State.reset).map State.pc = some 0x200 := by decide

/-- The neighbours of CLS and RET. -/
theorem test_meets_SysRaisesUnsupported : (0x0E1 : Addr) ≠ 0x0E0 ∧ (0x0E1 : Addr) ≠ 0x0EE ∧ (0x0EF : Addr) ≠ 0x0EE ∧
    State.reset.sp ≤ State.reset.stackDepth := by decide

/-- Both clauses: sp = 1 and sp = STACK_DEPTH, and sp = 0. -/
theorem test_meets_RetPopsExactly : let s := fun n : Nat => ({ State.reset with sp := n } : State)
    (0 < (s 1).sp ∧ (s 1).sp ≤ (s 1).stackDepth) ∧ (0 < (s 16).sp ∧ (s 16).sp ≤ (s 16).stackDepth) ∧ (s 0).sp = 0 := by decide

/-- Both clauses, at the bound between them. Also for `ReturnInvertsCall`. -/
theorem test_meets_CallPushesItsOwnAddress : let s := fun n : Nat => ({ State.reset with sp := n } : State)
    (s 15).sp < (s 15).stackDepth ∧ (s 16).sp = (s 16).stackDepth := by decide

theorem test_meets_ReturnRunsTheCallAgain :
    let s := (State.reset.setBytes 0x200 [0x22, 0x06]).setBytes 0x206 [0x00, 0xEE]
    s.sp < s.stackDepth ∧ s.pc.toNat + 1 < s.cfg.memSize ∧ (0x206 : Addr).toNat + 1 < s.cfg.memSize ∧
    joinBytes (s.byteAt s.pc.toNat) (s.byteAt (s.pc.toNat + 1)) = wordNNN 0x2 0x206 ∧
    joinBytes (s.byteAt (0x206 : Addr).toNat) (s.byteAt ((0x206 : Addr).toNat + 1)) = 0x00EE := by decide

theorem test_meets_SelfJumpEndsTheRun : let s := (State.reset.setPc 0xFFE).withFetchWord 16 0x1FFE
    s.sp ≤ s.stackDepth ∧ s.finished = true := by decide

theorem test_meets_SkipOnRegisters : (1 : Nibble) ≠ 0 ∧ (15 : Nibble) ≠ 0 := by decide

/-- Both clauses, at the bound between them. -/
theorem test_meets_SkipOnKeyState : ((withRegs [(0, 15)]).getV 0).toNat = (15 : RegIx).val ∧
    15 < ((withRegs [(0, 16)]).getV 0).toNat ∧ (withRegs [(0, 16)]).cfg.gkOpcodes = true ∧
    (withRegs [(0, 16)]).sp ≤ (withRegs [(0, 16)]).stackDepth := by decide

/-- The registers below VF. Also for `SubtractWithBorrow` and `ShiftOneBit`. -/
theorem test_meets_AddWithCarry : (0 : RegIx) ≠ 15 ∧ (14 : RegIx) ≠ 15 := by decide

/-- Both clauses, at the bound between them. -/
theorem test_meets_StoreDecimalDigits : let s := fun a => State.reset.setIndex a
    (s 0xFFD).index.toNat + 2 < (s 0xFFD).cfg.memSize ∧ (s 0xFFE).cfg.memSize ≤ (s 0xFFE).index.toNat + 2 ∧
    (s 0xFFE).cfg.gkOpcodes = true ∧ (s 0xFFE).sp ≤ (s 0xFFE).stackDepth := by decide

/-- Both clauses, at the bound between them, for the most and the fewest registers. Also for `LoadRegisters`. -/
theorem test_meets_StoreRegisters : let s := fun a => State.reset.setIndex a
    (s 0xFF0).index.toNat + (15 : RegIx).val < (s 0xFF0).cfg.memSize ∧
    (s 0xFF1).cfg.memSize ≤ (s 0xFF1).index.toNat + (15 : RegIx).val ∧
    (s 0xFFF).index.toNat + (0 : RegIx).val < (s 0xFFF).cfg.memSize ∧
    (s 0x1000).cfg.memSize ≤ (s 0x1000).index.toNat + (0 : RegIx).val ∧
    (s 0x1000).cfg.gkOpcodes = true ∧ (s 0x1000).sp ≤ (s 0x1000).stackDepth := by decide

/-- FX55 over both bytes of the opcode that follows it, and over its second byte alone (R64, R242). -/
theorem test_meets_StoredOpcodeIsFetched : let s := (withRegs [(0, 0x12), (1, 0x34)]).setByte 0x202 0x60
    (after (.ldMemVx 1) (s.setIndex 0x202)).map (fun t => (t.pc.toNat, t.fetch)) = some (0x202, some 0x1234) ∧
    (after (.ldMemVx 0) (s.setIndex 0x203)).map (fun t => (t.pc.toNat, t.fetch)) = some (0x202, some 0x6012) := by decide

/-- FX33 whose last digit falls on the first byte of the opcode that follows it, and the bound of the fetch. -/
theorem test_meets_StoredOpcodeIsFetched_digits :
    (after (.ldBVx 0) (((withRegs [(0, 254)]).setByte 0x203 0xEE).setIndex 0x200)).map (fun t => (t.pc.toNat, t.fetch)) =
      some (0x202, some 0x04EE) ∧
    (after (.ldBVx 0) ((State.reset.setPc 0xFFC).setIndex 0xFFD)).map (fun t => (t.pc.toNat, t.cfg.memSize)) =
      some (0xFFE, 0x1000) := by decide

theorem test_meets_RandomByteIsMasked : (0x0F : Byte).getLsbD 4 = false ∧ (0x0F : Byte).getLsbD 8 = false := by decide

/-- Both clauses: key 0, key F alone, and no key. -/
theorem test_meets_KeyWaitTakesLowestKey :
    ((State.reset.setKey 0 true).key 0 = true ∧ ∀ j : RegIx, j < 0 → (State.reset.setKey 0 true).key j = false) ∧
    ((State.reset.setKey 15 true).key 15 = true ∧ ∀ j : RegIx, j < 15 → (State.reset.setKey 15 true).key j = false) ∧
    ∀ k, State.reset.key k = false := by decide

/-- The three ranges at their bounds: no row, rows that end with memory, and one row too many. -/
theorem test_meets_DrawFlipsTheSpriteCells : let s := fun a => State.reset.setIndex a
    ((0 : Nibble) = 0) ∧ (s 0xFF1).index.toNat + (15 : Nibble).toNat ≤ (s 0xFF1).cfg.memSize ∧
    (15 : Nibble) ≠ 0 ∧ (s 0xFF2).cfg.memSize < (s 0xFF2).index.toNat + (15 : Nibble).toNat ∧
    (s 0xFF2).cfg.gkOpcodes = true ∧ (s 0xFF2).sp ≤ (s 0xFF2).stackDepth := by decide

/-- A sprite over a dark display: no covered cell is set. -/
theorem test_meets_DrawFlipsTheSpriteCells_dark (covered : Nat → Nat → Bool) :
    ∀ px py, px < 64 → py < 32 → covered px py = true → State.reset.cell (py * 64 + px) = false :=
  fun px py _ _ _ => Display.cell_clear (py * 64 + px)

/-- The corner cell covered and set, and what the edge rules make of the columns past it. -/
theorem test_meets_DrawFlipsTheSpriteCells_flag : let s := (withBytes 0x300 [0x01]).setDisp (lit [2047])
    (spriteCovers .wrap 56 31 1 (fun r => s.byteAt (s.index.toNat + r)) 63 31 = true ∧ s.cell (31 * 64 + 63) = true) ∧
    (spriteCovers .wrap 57 31 1 (fun r => s.byteAt (s.index.toNat + r)) 0 31 = true ∧ s.cell (31 * 64 + 0) = false) ∧
    spriteCovers .clip 57 31 1 (fun r => s.byteAt (s.index.toNat + r)) 0 31 = false := by decide

/-- An instruction that touches neither timers nor keys. -/
theorem test_meets_HostStepsCommuteWithOtherInstructions :
    (∀ x, Instr.cls ≠ .ldVxDt x ∧ Instr.cls ≠ .ldDtVx x ∧ Instr.cls ≠ .ldStVx x) ∧
    (∀ x, Instr.cls ≠ .skpVx x ∧ Instr.cls ≠ .sknpVx x ∧ Instr.cls ≠ .ldVxK x) := by decide

theorem test_meets_OnlyRandomReadsTheOracle : ∀ x nn, Instr.cls ≠ .rndVxByte x nn := by
  intro x nn h; cases h

/-- The font at the bottom and at the top of memory, and the last digit. -/
theorem test_meets_GlyphPointerFindsTheGlyph : defaultConfig.fontBase + 80 ≤ defaultConfig.memSize ∧
    ({ defaultConfig with fontBase := 4016 } : Config).fontBase + 80 ≤ defaultConfig.memSize ∧
    ({ defaultConfig with fontBase := 4016 } : Config).fontBase + 80 ≤ 65536 ∧
    (15 : RegIx).val = ((withRegs [(0, 0xFF)]).getV 0).toNat % 16 := by decide

/-- A state that holds the font and, at pc, an FX29 that it fetches. -/
theorem test_meets_GlyphPointerFindsTheGlyph_state : let s := (State.reset.loadFont).loadBytes 0x200 [0xF0, 0x29]
    s.HoldsFont ∧ s.cfg.fontBase + 80 ≤ 65536 ∧ s.byteAt 0x200 = 0xF0 ∧ s.byteAt 0x201 = 0x29 := by
  refine ⟨State.loadBytes_holdsFont (State.loadFont_holdsFont (by decide)) (.inl ?_), ?_, ?_, ?_⟩
  · rw [State.loadFont_cfg]; decide
  · rw [State.loadBytes_cfg, State.loadFont_cfg]; decide
  · rw [State.byteAt_loadBytes, State.loadFont_cfg]; decide
  · rw [State.byteAt_loadBytes, State.loadFont_cfg]; decide
end

section
namespace Sys2Proof.Machine

/-! ### The launched state (R40) -/

@[simp] theorem State.launch_sp (cfg : Config) (depth : Nat) (entry : Word) : (State.launch cfg depth entry).sp = 0 := rfl

/-- Settles O12: every launched state has an empty stack, and the reset state is the one launched with the default
parameters. -/
theorem resetStackIsEmpty : Obligations.ResetStackIsEmpty :=
  ⟨State.launch_sp defaultConfig defaultStackDepth defaultEntry, State.launch_sp⟩

end Sys2Proof.Machine
end

section
namespace Sys2Proof.Machine

/-! ### The fetch check of the step (R53) -/

/-- Settles O8: below the bound the step dispatches the word fetched, and from the bound on the fetch answers none. -/
theorem fetchChecksRange : Obligations.FetchChecksRange := by
  intro s hsp
  constructor
  · intro hlt
    exact step_of_fetched hsp (State.fetch_of_lt hlt)
  · intro hge
    exact step_of_unfetched hsp (State.fetch_of_ge hge)

end Sys2Proof.Machine
end

section
namespace Sys2Proof.Machine

/-! ### The bits of the extractor's fields (R71) -/

/-- The mask lets the lowest `n` nibbles through, bit by bit. -/
theorem lastNQuadbits_getLsbD (op : Word) (n : Fin 5) (k : Nat) :
    (lastNQuadbits op n).getLsbD k = (decide (k < 4 * n.val) && op.getLsbD k) := by
  rw [BitVec.getLsbD, lastNQuadbits_toNat, Nat.testBit_mod_two_pow, BitVec.testBit_toNat]

theorem xRegister_val (op : Word) : (xRegister op).val = (op.extractLsb' 8 4).toNat := by
  rw [BitVec.extractLsb'_toNat, Nat.shiftRight_eq_div_pow]; rfl

theorem yRegister_val (op : Word) : (yRegister op).val = (op.extractLsb' 4 4).toNat := by
  rw [BitVec.extractLsb'_toNat, Nat.shiftRight_eq_div_pow]; rfl

/-- R71 writes a register field as a shift and a mask with one nibble of ones. -/
theorem toNat_extractNibble (op : Word) (start : Nat) :
    (op.extractLsb' start 4).toNat = (op.toNat >>> start) &&& 0xF := by
  rw [BitVec.extractLsb'_toNat, ← Nat.and_two_pow_sub_one_eq_mod]

/-- Words that agree on the four bits from `start` have the same nibble there. -/
theorem extractNibble_congr {op op' : Word} {start : Nat}
    (h : ∀ k, start ≤ k → k < start + 4 → op.getLsbD k = op'.getLsbD k) :
    op.extractLsb' start 4 = op'.extractLsb' start 4 := by
  apply BitVec.eq_of_getLsbD_eq
  intro i hi
  have hbit : op.getLsbD (start + i) = op'.getLsbD (start + i) := h (start + i) (by omega) (by omega)
  rw [BitVec.getLsbD_extractLsb', BitVec.getLsbD_extractLsb', hbit]

/-- Settles O1: the mask is the definition and acts bit by bit; a register field is the nibble at its own start, so words
that agree on that nibble's bits have the same register. -/
theorem extractorIsolatesNibbles : Obligations.ExtractorIsolatesNibbles := by
  refine ⟨fun op n => ⟨rfl, lastNQuadbits_getLsbD op n⟩, fun op => ⟨?x, ?y⟩,
    fun op op' h => ?xBits, fun op op' h => ?yBits⟩
  case x => rw [xRegister_val, toNat_extractNibble]
  case y => rw [yRegister_val, toNat_extractNibble]
  case xBits => exact Fin.ext (by rw [xRegister_val, xRegister_val, extractNibble_congr h])
  case yBits => exact Fin.ext (by rw [yRegister_val, yRegister_val, extractNibble_congr h])

end Sys2Proof.Machine
end

section
namespace Sys2Proof

/-! ### The opcodes of family 0 (R76) -/

/-- The gate of R77 does not look at families 0 to 8. -/
theorem decodeOp_of_family_le {op : Word} (gk : Bool) (h : family op ≤ 8) : decodeOp gk op = decodeSource op :=
  if_pos h

theorem wordNNN_injective (f : Nibble) : Function.Injective (wordNNN f) := fun a b h => by
  rw [← nnnField_wordNNN f a, h, nnnField_wordNNN]

/-- Every 0NNN but the two exact values is SYS. -/
theorem decodeSource_wordNNN_zero {nnn : Addr} (hcls : nnn ≠ 0x0E0) (hret : nnn ≠ 0x0EE) :
    decodeSource (wordNNN 0x0 nnn) = .ok (.sys nnn) := by
  have hfam : decodeSource (wordNNN 0x0 nnn) = decodeFamily0 (wordNNN 0x0 nnn) := by
    rw [decodeSource, family_wordNNN]; rfl
  have h0 : wordNNN 0x0 nnn ≠ 0x00E0#16 := (wordNNN_injective 0x0).ne hcls
  have hE : wordNNN 0x0 nnn ≠ 0x00EE#16 := (wordNNN_injective 0x0).ne hret
  rw [hfam, decodeFamily0, if_neg h0, if_neg hE, nnnField_wordNNN]

end Sys2Proof
end

section
namespace Sys2Proof.Machine

/-! ### The tier, the caller's view of an error, and the frame of an update -/

theorem sourceTier_of_decodeSource {op : Word} {i : Instr} (hfam : family op ≤ 8) (h : decodeSource op = .ok i) :
    SourceTier op i := fun gk => (decodeOp_of_family_le gk hfam).trans h

/-- The error of an instruction that is not ready is the one `errorOf` names. -/
theorem exec_of_errorOf {i : Instr} {s : State} {f : Fault} (hsp : s.sp ≤ s.stackDepth) (hn : ¬ Ready i s)
    (hf : errorOf i s = some f) : exec i s = .fault f := by
  obtain ⟨g, hg, hx⟩ := exec_of_not_ready hsp hn
  rw [hx, Option.some.inj (hg.symm.trans hf)]

/-- The caller of an instruction that raises an error gets its report and the state unchanged (R206). -/
theorem transact_of_exec_fault {op : Word} {i : Instr} {s : State} {f : Fault} (hsp : s.sp ≤ s.stackDepth)
    (hd : decodeOp s.cfg.gkOpcodes op = .ok i) (hx : exec i s = .fault f) : transact op s = .err f.report s := by
  rw [transact, dispatch_of_decoded hsp hd, hx]

theorem Frame.trans {regs : List RegIx} {parts : List Part} {s t u : State} (h : Frame regs parts s t)
    (h' : Frame regs parts t u) : Frame regs parts s u := by
  obtain ⟨hv, hp⟩ := h
  obtain ⟨hv', hp'⟩ := h'
  refine ⟨fun j hj => (hv' j hj).trans (hv j hj), fun p hnot => ?_⟩
  have hst := hp p hnot
  have htu := hp' p hnot
  cases p
  case disp | keys | mem => exact fun k => (htu k).trans (hst k)
  all_goals exact Eq.trans htu hst

/-- The pc stands in no frame. -/
theorem State.frame_advance (regs : List RegIx) (parts : List Part) (s : State) : Frame regs parts s s.advance :=
  ⟨fun j _ => s.advance_getV j, fun p _ => by cases p <;> simp [Part.same]⟩

theorem State.frame_setDisp (regs : List RegIx) {parts : List Part} (h : .disp ∈ parts) (s : State) (d : Display) :
    Frame regs parts s (s.setDisp d) := by
  refine ⟨fun j _ => s.setDisp_getV d j, fun p hp => ?_⟩
  cases p
  case disp => exact absurd h hp
  all_goals simp [Part.same]

/-- A pop keeps the slots of the stack (D7). -/
theorem State.frame_pop (regs : List RegIx) {parts : List Part} (h : .sp ∈ parts) (s : State) :
    Frame regs parts s s.pop := by
  refine ⟨fun j _ => s.pop_getV j, fun p hp => ?_⟩
  cases p
  case sp => exact absurd h hp
  all_goals simp [Part.same]

/-! ### SYS, CLS and RET (R100 to R102) -/

theorem exec_sys (nnn : Addr) (s : State) : exec (.sys nnn) s = .fault (.unsupportedInstruction (wordNNN 0x0 nnn)) := rfl

theorem sourceTier_sys {nnn : Addr} (hcls : nnn ≠ 0x0E0) (hret : nnn ≠ 0x0EE) : SourceTier (wordNNN 0x0 nnn) (.sys nnn) :=
  sourceTier_of_decodeSource (by rw [family_wordNNN]; decide) (decodeSource_wordNNN_zero hcls hret)

theorem report_unsupported (nnn : Addr) :
    (Fault.unsupportedInstruction (wordNNN 0x0 nnn)).report = ⟨1, none, nnn.toNat⟩ := by
  have hop : (wordNNN 0x0 nnn).toNat = nnn.toNat := by simp [wordNNN_toNat]
  rw [Fault.report, hop]

/-- Settles O25: the word is SYS's in every state, so a dispatch of it ends in SYS's error, reported as R200 says. -/
theorem sysRaisesUnsupported : Obligations.SysRaisesUnsupported := by
  intro nnn s
  refine ⟨exec_sys nnn s, fun hcls hret => ?_⟩
  have htier := sourceTier_sys hcls hret
  refine ⟨htier, fun hsp => ?_⟩
  rw [transact_of_exec_fault hsp (htier _) (exec_sys nnn s), report_unsupported]

theorem sourceTier_cls : SourceTier 0x00E0 .cls := sourceTier_of_decodeSource (by decide) (by decide)

/-- Settles O26: the effect of CLS is the cleared display and the normal advance. -/
theorem clsClearsEveryCell : Obligations.ClsClearsEveryCell := by
  intro s
  refine ⟨sourceTier_cls, effect .cls s, exec_of_ready trivial, ?cells, rfl, ?frame⟩
  case cells => exact Display.cell_clear
  case frame => exact (s.frame_setDisp [] (by decide) Display.clear).trans (State.frame_advance _ _ _)

theorem sourceTier_ret : SourceTier 0x00EE .ret := sourceTier_of_decodeSource (by decide) (by decide)

/-- RET on an empty stack. -/
theorem exec_ret_underflow {s : State} (h : s.sp = 0) : exec .ret s = .fault (.stackViolation .underflow 0x00EE) :=
  exec_of_errorOf (h ▸ Nat.zero_le _) (fun hr => Nat.ne_of_gt hr.1 h) rfl

/-- Settles O27: with 0 < sp RET is ready and pops; with sp = 0 it is not, and the caller gets the underflow's report. -/
theorem retPopsExactly : Obligations.RetPopsExactly := by
  intro s
  refine ⟨sourceTier_ret, fun hpos hsp => ?pop, fun hzero => ?underflow⟩
  case pop =>
    exact ⟨s.pop, exec_of_ready ⟨hpos, hsp⟩, Nat.sub_add_cancel hpos, s.pop_pc, s.frame_pop [] (by decide)⟩
  case underflow =>
    have hx := exec_ret_underflow hzero
    exact ⟨hx, transact_of_exec_fault (hzero ▸ Nat.zero_le _) (sourceTier_ret _) hx⟩

end Sys2Proof.Machine
end

section
namespace Sys2Proof

/-! ### The opcodes of JP, CALL and JP V0 (R75, R77) -/

/-- The gate of R77 opens families 9 to F. -/
theorem decodeOp_true_of_family_gt {op : Word} (h : 8 < family op) : decodeOp true op = decodeGk op := by
  rw [decodeOp, if_neg (Nat.not_le.mpr h), if_pos rfl]

/-- The gate of R77 shuts families 9 to F. -/
theorem decodeOp_false_of_family_gt {op : Word} (h : 8 < family op) : decodeOp false op = .error (.unmapped op) := by
  rw [decodeOp, if_neg (Nat.not_le.mpr h), if_neg Bool.false_ne_true]

theorem decodeSource_wordNNN_one (nnn : Addr) : decodeSource (wordNNN 0x1 nnn) = .ok (.jpAddr nnn) := by
  rw [decodeSource, family_wordNNN, nnnField_wordNNN]; rfl

theorem decodeSource_wordNNN_two (nnn : Addr) : decodeSource (wordNNN 0x2 nnn) = .ok (.callAddr nnn) := by
  rw [decodeSource, family_wordNNN, nnnField_wordNNN]; rfl

theorem decodeGk_wordNNN_eleven (nnn : Addr) : decodeGk (wordNNN 0xB nnn) = .ok (.jpV0Addr nnn) := by
  rw [decodeGk, family_wordNNN, nnnField_wordNNN]; rfl

end Sys2Proof
end

section
namespace Sys2Proof.Machine

/-! ### The tier of a gated opcode, the frame of a jump and of a push, and the slot a push writes -/

theorem gkTier_of_decodeGk {op : Word} {i : Instr} (hfam : 8 < family op) (h : decodeGk op = .ok i) : GkTier op i :=
  ⟨(decodeOp_true_of_family_gt hfam).trans h, decodeOp_false_of_family_gt hfam⟩

theorem State.frame_setPc (regs : List RegIx) (parts : List Part) (s : State) (w : Word) :
    Frame regs parts s (s.setPc w) :=
  ⟨fun j _ => s.setPc_getV w j, fun p _ => by cases p <;> simp [Part.same]⟩

theorem State.frame_push (regs : List RegIx) {parts : List Part} (hstack : .stack ∈ parts) (hsp : .sp ∈ parts)
    (s : State) : Frame regs parts s s.push := by
  refine ⟨fun j _ => s.push_getV j, fun p hp => ?_⟩
  cases p
  case stack => exact absurd hstack hp
  case sp => exact absurd hsp hp
  all_goals simp [Part.same]

/-- The slot a push writes holds the pc of before it (R27). -/
theorem State.push_stack_getD_sp {s : State} (h : s.sp < s.stackDepth) : s.push.stack.getD s.sp 0 = s.pc := by
  rw [State.push_stack, List.getD_eq_getElem _ _ (by rwa [List.length_set]), List.getElem_set_self]

theorem State.push_stack_getD_of_ne (s : State) {k : Nat} (h : k ≠ s.sp) :
    s.push.stack.getD k 0 = s.stack.getD k 0 := by
  rw [State.push_stack, List.getD_eq_getElem?_getD, List.getElem?_set_ne h.symm, List.getD_eq_getElem?_getD]

/-- A sum of an address and a register byte stays below 2^16, so `NNN + V[0]` does not wrap (R112). -/
theorem zextAddr_add_zextByte_toNat (nnn : Addr) (b : Byte) :
    (zextAddr nnn + zextByte b).toNat = nnn.toNat + b.toNat := by
  have hlt : nnn.toNat + b.toNat < 2 ^ 16 := by omega
  rw [BitVec.toNat_add, zextAddr_toNat, zextByte_toNat, Nat.mod_eq_of_lt hlt]

/-! ### JP, CALL and JP V0 (R110 to R112) -/

theorem sourceTier_jpAddr (nnn : Addr) : SourceTier (wordNNN 0x1 nnn) (.jpAddr nnn) :=
  sourceTier_of_decodeSource (by rw [family_wordNNN]; decide) (decodeSource_wordNNN_one nnn)

/-- Settles O28: a jump is always ready, and its effect is the write of pc alone. -/
theorem jumpSetsPc : Obligations.JumpSetsPc := by
  intro nnn s
  exact ⟨sourceTier_jpAddr nnn, s.setPc (zextAddr nnn), exec_of_ready trivial, zextAddr_toNat nnn, s.frame_setPc [] [] _⟩

theorem sourceTier_callAddr (nnn : Addr) : SourceTier (wordNNN 0x2 nnn) (.callAddr nnn) :=
  sourceTier_of_decodeSource (by rw [family_wordNNN]; decide) (decodeSource_wordNNN_two nnn)

/-- CALL on a full stack. -/
theorem exec_callAddr_overflow (nnn : Addr) {s : State} (h : s.sp = s.stackDepth) :
    exec (.callAddr nnn) s = .fault (.stackViolation .overflow (wordNNN 0x2 nnn)) :=
  exec_of_errorOf (Nat.le_of_eq h) (fun hlt : s.sp < s.stackDepth => Nat.ne_of_lt hlt h) rfl

theorem report_overflow (nnn : Addr) :
    (Fault.stackViolation .overflow (wordNNN 0x2 nnn)).report = ⟨3, some 1, 0x2000 + nnn.toNat⟩ := by
  rw [Fault.report, wordNNN_toNat]; rfl

/-- RET right after CALL is ready: the call left sp at 1 or more and within the depth. -/
theorem ready_ret_effect_callAddr {nnn : Addr} {s : State} (h : s.sp < s.stackDepth) :
    Ready .ret (effect (.callAddr nnn) s) := by
  refine ⟨Nat.succ_pos s.sp, ?_⟩
  change s.sp + 1 ≤ s.push.stackDepth
  rw [State.push_stackDepth]
  exact h

/-- Settles O29: with a slot free CALL is ready, its effect is a push and a jump, and RET pops the slot just written; on a
full stack it is not ready, and the caller gets the overflow's report. -/
theorem callPushesItsOwnAddress : Obligations.CallPushesItsOwnAddress := by
  intro nnn s
  refine ⟨sourceTier_callAddr nnn, fun hfree => ?call, fun hfull => ?overflow⟩
  case call =>
    refine ⟨effect (.callAddr nnn) s, exec_of_ready hfree, State.push_stack_getD_sp hfree,
      fun k hk => s.push_stack_getD_of_ne hk, s.push_stackDepth, s.push_sp, zextAddr_toNat nnn, ?frame,
      effect .ret (effect (.callAddr nnn) s), exec_of_ready (ready_ret_effect_callAddr hfree),
      State.push_stack_getD_sp hfree, Nat.add_sub_cancel s.sp 1⟩
    case frame => exact (s.frame_push [] (by decide) (by decide)).trans (State.frame_setPc _ _ _ _)
  case overflow =>
    have hx := exec_callAddr_overflow nnn hfull
    refine ⟨hx, ?_⟩
    rw [transact_of_exec_fault (Nat.le_of_eq hfull) (sourceTier_callAddr nnn _) hx, report_overflow]

theorem gkTier_jpV0Addr (nnn : Addr) : GkTier (wordNNN 0xB nnn) (.jpV0Addr nnn) :=
  gkTier_of_decodeGk (by rw [family_wordNNN]; decide) (decodeGk_wordNNN_eleven nnn)

/-- Settles O32: the effect is the write of pc alone, and the sum is at most 0xFFF + 0xFF. -/
theorem jumpOffsetAddsV0 : Obligations.JumpOffsetAddsV0 := by
  intro nnn s
  have hpc := zextAddr_add_zextByte_toNat nnn (s.getV 0)
  refine ⟨gkTier_jpV0Addr nnn, s.setPc (zextAddr nnn + zextByte (s.getV 0)), exec_of_ready trivial, hpc, ?bound,
    s.frame_setPc [] [] _⟩
  case bound => rw [State.setPc_pc, hpc]; omega

end Sys2Proof.Machine
end

section
namespace Sys2Proof

/-! ### The opcodes of the skips (R75, R76) -/

theorem decodeSource_wordXNN_three (x : RegIx) (nn : Byte) : decodeSource (wordXNN 0x3 x nn) = .ok (.seVxByte x nn) := by
  rw [decodeSource, family_wordXNN, xRegister_wordXNN, nnField_wordXNN]; rfl

theorem decodeSource_wordXNN_four (x : RegIx) (nn : Byte) : decodeSource (wordXNN 0x4 x nn) = .ok (.sneVxByte x nn) := by
  rw [decodeSource, family_wordXNN, xRegister_wordXNN, nnField_wordXNN]; rfl

/-- Family 5 decodes with low nibble 0 alone (D9). -/
theorem decodeSource_wordXYN_five (x y : RegIx) (n : Nibble) :
    decodeSource (wordXYN 0x5 x y n) = if n = 0 then .ok (.seVxVy x y) else .error (.unmapped (wordXYN 0x5 x y n)) := by
  rw [decodeSource, family_wordXYN, nField_wordXYN, xRegister_wordXYN, yRegister_wordXYN]; rfl

/-- Family 9 decodes with low nibble 0 alone (D9). -/
theorem decodeGk_wordXYN_nine (x y : RegIx) (n : Nibble) :
    decodeGk (wordXYN 0x9 x y n) = if n = 0 then .ok (.sneVxVy x y) else .error (.unmapped (wordXYN 0x9 x y n)) := by
  rw [decodeGk, family_wordXYN, nField_wordXYN, xRegister_wordXYN, yRegister_wordXYN]; rfl

theorem decodeGk_wordXNN_fourteen (x : RegIx) (nn : Byte) :
    decodeGk (wordXNN 0xE x nn) = decodeFamilyE (wordXNN 0xE x nn) := by
  rw [decodeGk, family_wordXNN]; rfl

theorem decodeFamilyE_skp (x : RegIx) : decodeFamilyE (wordXNN 0xE x 0x9E) = .ok (.skpVx x) := by
  rw [decodeFamilyE, nnField_wordXNN, xRegister_wordXNN]; rfl

theorem decodeFamilyE_sknp (x : RegIx) : decodeFamilyE (wordXNN 0xE x 0xA1) = .ok (.sknpVx x) := by
  rw [decodeFamilyE, nnField_wordXNN, xRegister_wordXNN]; rfl

/-- An opcode of families 9 to F with no row is unmapped under both settings of the gate. -/
theorem decodeOp_unmapped_of_decodeGk {op : Word} (gk : Bool) (hfam : 8 < family op)
    (h : decodeGk op = .error (.unmapped op)) : decodeOp gk op = .error (.unmapped op) := by
  cases gk with
  | true => exact (decodeOp_true_of_family_gt hfam).trans h
  | false => exact decodeOp_false_of_family_gt hfam

end Sys2Proof
end

section
namespace Sys2Proof.Machine

/-! ### What a skip does: pc moves by 4 or by 2, and nothing else changes -/

theorem State.frame_skipIf (regs : List RegIx) (parts : List Part) (s : State) (c : Bool) :
    Frame regs parts s (s.skipIf c) :=
  ⟨fun j _ => s.skipIf_getV c j, fun p _ => by cases p <;> simp [Part.same]⟩

/-- A ready instruction whose effect is a skip on `c` skips exactly when the condition `P` that `c` decides holds. -/
theorem exec_skip {i : Instr} {s : State} {c : Bool} {P : Prop} [Decidable P] (hready : Ready i s)
    (heffect : effect i s = s.skipIf c) (hc : c = true ↔ P) :
    ∃ t, exec i s = .next t ∧ t.pc = (if P then s.pc + 4 else s.pc + 2) ∧ Frame [] [] s t := by
  refine ⟨s.skipIf c, heffect ▸ exec_of_ready hready, ?pc, s.frame_skipIf [] [] c⟩
  case pc => simp only [State.skipIf_pc, hc]

/-! ### SE and SNE with an immediate (R120, R121) -/

theorem sourceTier_seVxByte (x : RegIx) (nn : Byte) : SourceTier (wordXNN 0x3 x nn) (.seVxByte x nn) :=
  sourceTier_of_decodeSource (by rw [family_wordXNN]; decide) (decodeSource_wordXNN_three x nn)

theorem sourceTier_sneVxByte (x : RegIx) (nn : Byte) : SourceTier (wordXNN 0x4 x nn) (.sneVxByte x nn) :=
  sourceTier_of_decodeSource (by rw [family_wordXNN]; decide) (decodeSource_wordXNN_four x nn)

/-- Settles O34: both are always ready, and their effect is a skip on the comparison of V[X] with NN. -/
theorem skipOnImmediate : Obligations.SkipOnImmediate := by
  intro x nn s
  refine ⟨sourceTier_seVxByte x nn, sourceTier_sneVxByte x nn, ?se, ?sne⟩
  case se => exact exec_skip trivial rfl beq_iff_eq
  case sne => exact exec_skip trivial rfl bne_iff_ne

/-! ### SE and SNE with two registers (R122, R123) -/

theorem sourceTier_seVxVy (x y : RegIx) : SourceTier (wordXYN 0x5 x y 0) (.seVxVy x y) :=
  sourceTier_of_decodeSource (by rw [family_wordXYN]; decide) ((decodeSource_wordXYN_five x y 0).trans (if_pos rfl))

theorem gkTier_sneVxVy (x y : RegIx) : GkTier (wordXYN 0x9 x y 0) (.sneVxVy x y) :=
  gkTier_of_decodeGk (by rw [family_wordXYN]; decide) ((decodeGk_wordXYN_nine x y 0).trans (if_pos rfl))

theorem decodeOp_wordXYN_five_unmapped (gk : Bool) (x y : RegIx) {n : Nibble} (hn : n ≠ 0) :
    decodeOp gk (wordXYN 0x5 x y n) = .error (.unmapped (wordXYN 0x5 x y n)) := by
  rw [decodeOp_of_family_le gk (by rw [family_wordXYN]; decide), decodeSource_wordXYN_five, if_neg hn]

theorem decodeOp_wordXYN_nine_unmapped (gk : Bool) (x y : RegIx) {n : Nibble} (hn : n ≠ 0) :
    decodeOp gk (wordXYN 0x9 x y n) = .error (.unmapped (wordXYN 0x9 x y n)) :=
  decodeOp_unmapped_of_decodeGk gk (by rw [family_wordXYN]; decide) ((decodeGk_wordXYN_nine x y n).trans (if_neg hn))

/-- Settles O35: both are always ready, and their effect is a skip on the comparison of V[X] with V[Y]; families 5 and 9
decode with low nibble 0 alone. -/
theorem skipOnRegisters : Obligations.SkipOnRegisters := by
  intro x y s
  refine ⟨sourceTier_seVxVy x y, gkTier_sneVxVy x y, fun n gk hn => ?unmapped, ?se, ?sne⟩
  case unmapped => exact ⟨decodeOp_wordXYN_five_unmapped gk x y hn, decodeOp_wordXYN_nine_unmapped gk x y hn⟩
  case se => exact exec_skip trivial rfl beq_iff_eq
  case sne => exact exec_skip trivial rfl bne_iff_ne

/-! ### SKP and SKNP (R124, R125) -/

theorem gkTier_skpVx (x : RegIx) : GkTier (wordXNN 0xE x 0x9E) (.skpVx x) :=
  gkTier_of_decodeGk (by rw [family_wordXNN]; decide) ((decodeGk_wordXNN_fourteen x 0x9E).trans (decodeFamilyE_skp x))

theorem gkTier_sknpVx (x : RegIx) : GkTier (wordXNN 0xE x 0xA1) (.sknpVx x) :=
  gkTier_of_decodeGk (by rw [family_wordXNN]; decide) ((decodeGk_wordXNN_fourteen x 0xA1).trans (decodeFamilyE_sknp x))

/-- A register that holds a key number names that key. -/
theorem keyIndex_of_toNat_eq {b : Byte} {k : RegIx} (h : b.toNat = k.val) : keyIndex b = some k := by
  have hlt : b.toNat < 16 := h ▸ k.isLt
  rw [keyIndex_of_lt hlt]
  exact congrArg some (Fin.ext h)

theorem skipOnKeyEffect_of_toNat_eq {s : State} {x k : RegIx} (down : Bool) (h : (s.getV x).toNat = k.val) :
    skipOnKeyEffect s x down = s.skipIf (s.key k == down) := by
  rw [skipOnKeyEffect, keyIndex_of_toNat_eq h]

/-- With the gate of R77 open an opcode of the general-knowledge tier is its instruction's. -/
theorem decodeOp_of_gkTier {op : Word} {i : Instr} {gk : Bool} (h : GkTier op i) (hgk : gk = true) :
    decodeOp gk op = .ok i := hgk ▸ h.1

/-- Settles O36: with a key number in V[X] both are ready, and their effect is a skip on that key's state; above 15 they
raise OutOfRange, whatever sp is. -/
theorem skipOnKeyState : Obligations.SkipOnKeyState := by
  intro x s
  refine ⟨gkTier_skpVx x, gkTier_sknpVx x, fun k hk => ?skip, fun hge => ?outOfRange⟩
  case skip =>
    have hready : (s.getV x).toNat < 16 := hk ▸ k.isLt
    exact ⟨exec_skip (i := .skpVx x) hready (skipOnKeyEffect_of_toNat_eq true hk) beq_iff_eq,
      exec_skip (i := .sknpVx x) hready (skipOnKeyEffect_of_toNat_eq false hk) beq_iff_eq⟩
  case outOfRange =>
    have hskp : exec (.skpVx x) s = .fault (.outOfRange (s.getV x).toNat) := State.skipOnKey_of_ge true hge
    have hsknp : exec (.sknpVx x) s = .fault (.outOfRange (s.getV x).toNat) := State.skipOnKey_of_ge false hge
    refine ⟨hskp, hsknp, fun hgk hsp => ⟨?skp, ?sknp⟩⟩
    case skp => exact transact_of_exec_fault hsp (decodeOp_of_gkTier (gkTier_skpVx x) hgk) hskp
    case sknp => exact transact_of_exec_fault hsp (decodeOp_of_gkTier (gkTier_sknpVx x) hgk) hsknp

end Sys2Proof.Machine
end

section
namespace Sys2Proof

/-! ### The opcodes of LD and ADD with an immediate (R75) -/

theorem decodeSource_wordXNN_six (x : RegIx) (nn : Byte) : decodeSource (wordXNN 0x6 x nn) = .ok (.ldVxByte x nn) := by
  rw [decodeSource, family_wordXNN, xRegister_wordXNN, nnField_wordXNN]; rfl

theorem decodeSource_wordXNN_seven (x : RegIx) (nn : Byte) :
    decodeSource (wordXNN 0x7 x nn) = .ok (.addVxByte x nn) := by
  rw [decodeSource, family_wordXNN, xRegister_wordXNN, nnField_wordXNN]; rfl

end Sys2Proof
end

section
namespace Sys2Proof.Machine

/-! ### What the write of one register does: that register alone changes -/

theorem State.frame_setV {regs : List RegIx} {x : RegIx} (hx : x ∈ regs) (parts : List Part) (s : State) (b : Byte) :
    Frame regs parts s (s.setV x b) :=
  ⟨fun _ hj => s.setV_getV_other b (ne_of_mem_of_not_mem hx hj).symm, fun p _ => by cases p <;> simp [Part.same]⟩

/-- A ready instruction whose effect is the write of `b` to V[X] and the normal advance leaves `b` there, and nothing else
but pc changes (R24). -/
theorem exec_setV {i : Instr} {s : State} {x : RegIx} {b : Byte} (hready : Ready i s)
    (heffect : effect i s = (s.setV x b).advance) :
    ∃ t, exec i s = .next t ∧ t.getV x = b ∧ t.pc = s.pc + 2 ∧ Frame [x] [] s t := by
  refine ⟨(s.setV x b).advance, heffect ▸ exec_of_ready hready, s.setV_getV_same x b, rfl, ?frame⟩
  case frame => exact (s.frame_setV (List.mem_singleton_self x) [] b).trans (State.frame_advance _ _ _)

/-! ### LD and ADD with an immediate (R130, R131) -/

theorem sourceTier_ldVxByte (x : RegIx) (nn : Byte) : SourceTier (wordXNN 0x6 x nn) (.ldVxByte x nn) :=
  sourceTier_of_decodeSource (by rw [family_wordXNN]; decide) (decodeSource_wordXNN_six x nn)

/-- Settles O37: LD is always ready, and its effect is the write of NN to V[X]. -/
theorem loadImmediate : Obligations.LoadImmediate := by
  intro x nn s
  exact ⟨sourceTier_ldVxByte x nn, exec_setV trivial rfl⟩

theorem sourceTier_addVxByte (x : RegIx) (nn : Byte) : SourceTier (wordXNN 0x7 x nn) (.addVxByte x nn) :=
  sourceTier_of_decodeSource (by rw [family_wordXNN]; decide) (decodeSource_wordXNN_seven x nn)

/-- Settles O38: ADD is always ready, and its effect is the write to V[X] of the sum of two bytes, which wraps as a byte. -/
theorem addImmediateWraps : Obligations.AddImmediateWraps := by
  intro x nn s
  obtain ⟨t, hexec, hsum, hpc, hframe⟩ := exec_setV (i := .addVxByte x nn) (b := s.getV x + nn) trivial rfl
  refine ⟨sourceTier_addVxByte x nn, t, hexec, ?sum, hpc, hframe⟩
  case sum => rw [hsum, BitVec.toNat_add]

end Sys2Proof.Machine
end

section
namespace Sys2Proof

/-! ### The opcodes of family 8 (R76) -/

/-- Family 8 looks at N, X and Y alone: what it answers to every word with low nibble `n` it answers to 8XYn. -/
theorem decodeSource_wordXYN_eight {n : Nibble} {c : RegIx → RegIx → Instr}
    (h : ∀ op, nField op = n → decodeFamily8 op = .ok (c (xRegister op) (yRegister op))) (x y : RegIx) :
    decodeSource (wordXYN 0x8 x y n) = .ok (c x y) := by
  have hfam : decodeSource (wordXYN 0x8 x y n) = decodeFamily8 (wordXYN 0x8 x y n) := by
    rw [decodeSource, family_wordXYN]; rfl
  rw [hfam, h _ (nField_wordXYN _ n x y), xRegister_wordXYN, yRegister_wordXYN]

end Sys2Proof
end

section
namespace Sys2Proof.Machine

/-! ### The tier of the register ALU's opcodes -/

theorem sourceTier_wordXYN_eight {n : Nibble} {c : RegIx → RegIx → Instr}
    (h : ∀ op, nField op = n → decodeFamily8 op = .ok (c (xRegister op) (yRegister op))) (x y : RegIx) :
    SourceTier (wordXYN 0x8 x y n) (c x y) :=
  sourceTier_of_decodeSource (by rw [family_wordXYN]; decide) (decodeSource_wordXYN_eight h x y)

theorem sourceTier_ldVxVy (x y : RegIx) : SourceTier (wordXYN 0x8 x y 0x0) (.ldVxVy x y) :=
  sourceTier_wordXYN_eight (fun _ hn => by rw [decodeFamily8, hn]; rfl) x y

theorem sourceTier_orVxVy (x y : RegIx) : SourceTier (wordXYN 0x8 x y 0x1) (.orVxVy x y) :=
  sourceTier_wordXYN_eight (fun _ hn => by rw [decodeFamily8, hn]; rfl) x y

theorem sourceTier_andVxVy (x y : RegIx) : SourceTier (wordXYN 0x8 x y 0x2) (.andVxVy x y) :=
  sourceTier_wordXYN_eight (fun _ hn => by rw [decodeFamily8, hn]; rfl) x y

theorem sourceTier_xorVxVy (x y : RegIx) : SourceTier (wordXYN 0x8 x y 0x3) (.xorVxVy x y) :=
  sourceTier_wordXYN_eight (fun _ hn => by rw [decodeFamily8, hn]; rfl) x y

theorem sourceTier_addVxVy (x y : RegIx) : SourceTier (wordXYN 0x8 x y 0x4) (.addVxVy x y) :=
  sourceTier_wordXYN_eight (fun _ hn => by rw [decodeFamily8, hn]; rfl) x y

theorem sourceTier_subVxVy (x y : RegIx) : SourceTier (wordXYN 0x8 x y 0x5) (.subVxVy x y) :=
  sourceTier_wordXYN_eight (fun _ hn => by rw [decodeFamily8, hn]; rfl) x y

theorem sourceTier_shrVxVy (x y : RegIx) : SourceTier (wordXYN 0x8 x y 0x6) (.shrVxVy x y) :=
  sourceTier_wordXYN_eight (fun _ hn => by rw [decodeFamily8, hn]; rfl) x y

theorem sourceTier_subnVxVy (x y : RegIx) : SourceTier (wordXYN 0x8 x y 0x7) (.subnVxVy x y) :=
  sourceTier_wordXYN_eight (fun _ hn => by rw [decodeFamily8, hn]; rfl) x y

theorem sourceTier_shlVxVy (x y : RegIx) : SourceTier (wordXYN 0x8 x y 0xE) (.shlVxVy x y) :=
  sourceTier_wordXYN_eight (fun _ hn => by rw [decodeFamily8, hn]; rfl) x y

/-! ### What the write of a result and then of the flag does: those two registers alone change -/

theorem State.frame_setResultAndFlag {regs : List RegIx} {x : RegIx} (hx : x ∈ regs) (hflag : flagReg ∈ regs)
    (parts : List Part) (s : State) (r : Byte) (c : Bool) : Frame regs parts s (s.setResultAndFlag x r c) :=
  (s.frame_setV hx parts r).trans (State.frame_setV hflag parts _ _)

/-- A ready instruction whose effect is the write of `r` to V[X], then of the flag to VF, and the normal advance: the flag is
what stays when X = F (R144, D12). -/
theorem exec_setResultAndFlag {i : Instr} {s : State} {x : RegIx} {r : Byte} {c : Bool} (hready : Ready i s)
    (heffect : effect i s = (s.setResultAndFlag x r c).advance) :
    ∃ t, exec i s = .next t ∧ (x ≠ 15 → t.getV x = r) ∧ t.getV 15 = flagByte c ∧ t.pc = s.pc + 2 ∧
      Frame [x, 15] [] s t := by
  refine ⟨(s.setResultAndFlag x r c).advance, heffect ▸ exec_of_ready hready, fun hx => ?result, ?flag, rfl, ?frame⟩
  case result => exact (s.setResultAndFlag_getV x x r c).trans ((if_neg hx).trans (if_pos rfl))
  case flag => exact (s.setResultAndFlag_getV x 15 r c).trans (if_pos rfl)
  case frame => exact (s.frame_setResultAndFlag (by simp) (by simp [flagReg]) [] r c).trans (State.frame_advance _ _ _)

/-! ### ADD, SUB and SUBN (R144, R145, R147) -/

theorem carryOut_toNat (a b : Byte) : (carryOut a b).toNat = (a.toNat + b.toNat) / 256 := by
  by_cases h : 256 ≤ a.toNat + b.toNat
  · rw [(carryOut_iff a b).mpr h, Bool.toNat_true]; omega
  · rw [Bool.eq_false_iff.mpr (mt (carryOut_iff a b).mp h), Bool.toNat_false]; omega

/-- Settles O41: ADD is always ready, and its effect is the write of the sum of two bytes and then of the carry. -/
theorem addWithCarry : Obligations.AddWithCarry := by
  intro x y s
  obtain ⟨t, hexec, hsum, hcarry, hpc, hframe⟩ := exec_setResultAndFlag (i := .addVxVy x y) (s := s) trivial rfl
  refine ⟨sourceTier_addVxVy x y, t, hexec, fun hx => ?sum, ?carry, hpc, hframe⟩
  case sum => rw [hsum hx, BitVec.toNat_add]
  case carry => rw [hcarry, flagByte_toNat, carryOut_toNat]

theorem flagByte_noBorrow (m t : Byte) : flagByte (noBorrow m t) = if t.toNat ≤ m.toNat then 1 else 0 := by
  simp only [flagByte, noBorrow_iff]

/-- A ready instruction whose effect is a subtraction with its flag, whichever operand is the minuend. -/
theorem exec_subtract {i : Instr} {s : State} {x : RegIx} {m t : Byte} (hready : Ready i s)
    (heffect : effect i s = (s.setResultAndFlag x (m - t) (noBorrow m t)).advance) :
    ∃ u, exec i s = .next u ∧ (x ≠ 15 → (u.getV x).toNat = (m.toNat + 256 - t.toNat) % 256) ∧
      u.getV 15 = (if t.toNat ≤ m.toNat then 1 else 0) ∧ u.pc = s.pc + 2 ∧ Frame [x, 15] [] s u := by
  obtain ⟨u, hexec, hdiff, hflag, hpc, hframe⟩ := exec_setResultAndFlag hready heffect
  refine ⟨u, hexec, fun hx => ?diff, hflag.trans (flagByte_noBorrow m t), hpc, hframe⟩
  case diff => rw [hdiff hx, BitVec.toNat_sub]; omega

/-- Settles O42: both are always ready, and their effect is a subtraction with its flag, SUBN's with the operands exchanged. -/
theorem subtractWithBorrow : Obligations.SubtractWithBorrow := by
  intro x y s
  exact ⟨sourceTier_subVxVy x y, sourceTier_subnVxVy x y, exec_subtract trivial rfl, exec_subtract trivial rfl⟩

/-! ### SHR and SHL (R146, R148) -/

theorem State.shiftOperand_eq (s : State) (x y : RegIx) :
    s.shiftOperand x y = if s.cfg.shiftSrc = .vx then s.getV x else s.getV y := by
  rw [State.shiftOperand]; cases s.cfg.shiftSrc <;> rfl

/-- Settles O43: both are always ready, and their effect is the write of the shifted operand and then of the bit it lost. -/
theorem shiftOneBit : Obligations.ShiftOneBit := by
  intro x y s
  refine ⟨sourceTier_shrVxVy x y, sourceTier_shlVxVy x y, fun src hsrc => ?_⟩
  obtain rfl : src = s.shiftOperand x y := hsrc.trans (s.shiftOperand_eq x y).symm
  constructor
  case left =>
    obtain ⟨t, hexec, hres, hlost, hpc, hframe⟩ := exec_setResultAndFlag (i := .shrVxVy x y) (s := s) trivial rfl
    refine ⟨t, hexec, fun hx => ?half, ?bit, hpc, hframe⟩
    case half => rw [hres hx, BitVec.toNat_ushiftRight, Nat.shiftRight_one]
    case bit => rw [hlost, flagByte_toNat, lostRight_toNat]
  case right =>
    obtain ⟨t, hexec, hres, hlost, hpc, hframe⟩ := exec_setResultAndFlag (i := .shlVxVy x y) (s := s) trivial rfl
    refine ⟨t, hexec, fun hx => ?double, ?bit, hpc, hframe⟩
    case double => rw [hres hx, BitVec.toNat_shiftLeft, Nat.shiftLeft_eq, Nat.pow_one]
    case bit => rw [hlost, flagByte_toNat, lostLeft_toNat]

/-! ### LD, OR, AND and XOR with two registers (R140 to R143) -/

/-- Settles O39: LD is always ready, and its effect is the write of V[Y] to V[X], which leaves V[Y] alone even when X = Y. -/
theorem copyRegister : Obligations.CopyRegister := by
  intro x y s
  obtain ⟨t, hexec, hcopy, hpc, hframe⟩ := exec_setV (i := .ldVxVy x y) (s := s) trivial rfl
  refine ⟨sourceTier_ldVxVy x y, t, hexec, hcopy, ?source, hpc, hframe⟩
  case source =>
    rcases eq_or_ne y x with rfl | hne
    · exact hcopy
    · exact hframe.1 y (List.mem_singleton.not.mpr hne)

/-- A ready instruction whose effect is the write of a byte to V[X] leaves there the byte's bits, given as `f`. -/
theorem exec_setV_bits {i : Instr} {s : State} {x : RegIx} {b : Byte} {f : Nat → Bool} (hready : Ready i s)
    (heffect : effect i s = (s.setV x b).advance) (hbits : ∀ k, b.getLsbD k = f k) :
    ∃ t, exec i s = .next t ∧ t.pc = s.pc + 2 ∧ Frame [x] [] s t ∧ ∀ k, (t.getV x).getLsbD k = f k := by
  obtain ⟨t, hexec, hb, hpc, hframe⟩ := exec_setV hready heffect
  exact ⟨t, hexec, hpc, hframe, hb ▸ hbits⟩

/-- Settles O40: all three are always ready, and their effect is the write to V[X] of a byte computed bit by bit. -/
theorem bitwiseOperations : Obligations.BitwiseOperations := by
  intro x y s
  refine ⟨sourceTier_orVxVy x y, sourceTier_andVxVy x y, sourceTier_xorVxVy x y, ?or, ?and, ?xor⟩
  case or => exact exec_setV_bits trivial rfl (fun _ => BitVec.getLsbD_or)
  case and => exact exec_setV_bits trivial rfl (fun _ => BitVec.getLsbD_and)
  case xor => exact exec_setV_bits trivial rfl (fun _ => BitVec.getLsbD_xor)

end Sys2Proof.Machine
end

section
namespace Sys2Proof

/-! ### The opcodes of the index register and the memory transfers (R75, R76) -/

theorem decodeGk_wordNNN_ten (nnn : Addr) : decodeGk (wordNNN 0xA nnn) = .ok (.ldIAddr nnn) := by
  rw [decodeGk, family_wordNNN, nnnField_wordNNN]; rfl

/-- Family F looks at NN and X alone: what it answers to every word with low byte `nn` it answers to FXnn. -/
theorem decodeGk_wordXNN_fifteen {nn : Byte} {c : RegIx → Instr}
    (h : ∀ op, nnField op = nn → decodeFamilyF op = .ok (c (xRegister op))) (x : RegIx) :
    decodeGk (wordXNN 0xF x nn) = .ok (c x) := by
  have hfam : decodeGk (wordXNN 0xF x nn) = decodeFamilyF (wordXNN 0xF x nn) := by
    rw [decodeGk, family_wordXNN]; rfl
  rw [hfam, h _ (nnField_wordXNN _ x nn), xRegister_wordXNN]

end Sys2Proof
end

section
namespace Sys2Proof.Machine

/-! ### The tier of the index register's and the memory transfers' opcodes -/

theorem gkTier_ldIAddr (nnn : Addr) : GkTier (wordNNN 0xA nnn) (.ldIAddr nnn) :=
  gkTier_of_decodeGk (by rw [family_wordNNN]; decide) (decodeGk_wordNNN_ten nnn)

theorem gkTier_wordXNN_fifteen {nn : Byte} {c : RegIx → Instr}
    (h : ∀ op, nnField op = nn → decodeFamilyF op = .ok (c (xRegister op))) (x : RegIx) :
    GkTier (wordXNN 0xF x nn) (c x) :=
  gkTier_of_decodeGk (by rw [family_wordXNN]; decide) (decodeGk_wordXNN_fifteen h x)

theorem gkTier_addIVx (x : RegIx) : GkTier (wordXNN 0xF x 0x1E) (.addIVx x) :=
  gkTier_wordXNN_fifteen (fun _ hnn => by rw [decodeFamilyF, hnn]; rfl) x

theorem gkTier_ldFVx (x : RegIx) : GkTier (wordXNN 0xF x 0x29) (.ldFVx x) :=
  gkTier_wordXNN_fifteen (fun _ hnn => by rw [decodeFamilyF, hnn]; rfl) x

theorem gkTier_ldBVx (x : RegIx) : GkTier (wordXNN 0xF x 0x33) (.ldBVx x) :=
  gkTier_wordXNN_fifteen (fun _ hnn => by rw [decodeFamilyF, hnn]; rfl) x

theorem gkTier_ldMemVx (x : RegIx) : GkTier (wordXNN 0xF x 0x55) (.ldMemVx x) :=
  gkTier_wordXNN_fifteen (fun _ hnn => by rw [decodeFamilyF, hnn]; rfl) x

theorem gkTier_ldVxMem (x : RegIx) : GkTier (wordXNN 0xF x 0x65) (.ldVxMem x) :=
  gkTier_wordXNN_fifteen (fun _ hnn => by rw [decodeFamilyF, hnn]; rfl) x

/-! ### What the write of I does: I alone changes -/

theorem State.frame_setIndex (regs : List RegIx) {parts : List Part} (h : .index ∈ parts) (s : State) (w : Word) :
    Frame regs parts s (s.setIndex w) := by
  refine ⟨fun j _ => s.setIndex_getV w j, fun p hp => ?_⟩
  cases p
  case index => exact absurd h hp
  all_goals simp [Part.same]

/-- A ready instruction whose effect is the write of `w` to I and the normal advance leaves `w` there, and nothing else but
pc changes (R24). -/
theorem exec_setIndex {i : Instr} {s : State} {w : Word} (hready : Ready i s)
    (heffect : effect i s = (s.setIndex w).advance) :
    ∃ t, exec i s = .next t ∧ t.index = w ∧ t.pc = s.pc + 2 ∧ Frame [] [.index] s t := by
  refine ⟨(s.setIndex w).advance, heffect ▸ exec_of_ready hready, rfl, rfl, ?frame⟩
  case frame => exact (s.frame_setIndex [] (by decide) w).trans (State.frame_advance _ _ _)

/-! ### LD I, ADD I and LD F (R160 to R162) -/

/-- Settles O44: LD I is always ready, and its effect is the write of NNN to I. -/
theorem loadIndex : Obligations.LoadIndex := by
  intro nnn s
  obtain ⟨t, hexec, hindex, hpc, hframe⟩ := exec_setIndex (i := .ldIAddr nnn) (s := s) trivial rfl
  refine ⟨gkTier_ldIAddr nnn, t, hexec, ?index, hpc, hframe⟩
  case index => rw [hindex, zextAddr_toNat]

/-- Settles O45: ADD I is always ready, and its effect is the write to I of a sum of two words, which wraps as a word. -/
theorem addIndexWraps : Obligations.AddIndexWraps := by
  intro x s
  obtain ⟨t, hexec, hindex, hpc, hframe⟩ := exec_setIndex (i := .addIVx x) (s := s) trivial rfl
  refine ⟨gkTier_addIVx x, t, hexec, ?index, hpc, hframe⟩
  case index => rw [hindex, BitVec.toNat_add, zextByte_toNat]

/-- Settles O46: LD F is always ready, and its effect is the write of the glyph's address to I. -/
theorem glyphPointer : Obligations.GlyphPointer := by
  intro x s
  obtain ⟨t, hexec, hindex, hpc, hframe⟩ := exec_setIndex (i := .ldFVx x) (s := s) trivial rfl
  refine ⟨gkTier_ldFVx x, t, hexec, ?index, hpc, hframe⟩
  case index => rw [hindex, State.glyphAddress, BitVec.toNat_ofNat]

/-! ### What the write of bytes in a row does: those bytes alone change -/

theorem State.byteAt_setBytes_of_lt {k : Nat} (s : State) (a : Nat) {bs : List Byte} (h : k < bs.length) :
    (s.setBytes a bs).byteAt (a + k) = bs.getD k blankByte := by
  rw [State.byteAt_setBytes, if_pos (by omega), Nat.add_sub_cancel_left]

theorem State.keptOutside_setBytes (s : State) (a : Nat) (bs : List Byte) :
    KeptOutside a bs.length s (s.setBytes a bs) := by
  intro c hc
  rw [State.byteAt_setBytes, if_neg (by omega)]

theorem State.frame_setBytes (regs : List RegIx) {parts : List Part} (h : .mem ∈ parts) (s : State) (a : Nat)
    (bs : List Byte) : Frame regs parts s (s.setBytes a bs) := by
  refine ⟨fun j _ => s.setBytes_getV a bs j, fun p hp => ?_⟩
  cases p
  case mem => exact absurd h hp
  all_goals simp [Part.same]

/-! ### A transfer out of range (R52, R200) -/

/-- An instruction that checks the `n` bytes from I raises OutOfRange(max(I, MEM_SIZE)) when one of them is not in memory,
and its caller gets that report and the state unchanged. -/
theorem outOfRange_of_not_fits {op : Word} {i : Instr} {s t : State} {n : Nat} (htier : GkTier op i)
    (hexec : exec i s = s.whenSpanFits s.index.toNat (n + 1) t) (h : s.cfg.memSize ≤ s.index.toNat + n) :
    exec i s = .fault (.outOfRange (max s.index.toNat s.cfg.memSize)) ∧
      (s.cfg.gkOpcodes = true → s.sp ≤ s.stackDepth →
        transact op s = .err ⟨4, none, max s.index.toNat s.cfg.memSize⟩ s) := by
  have hfault := hexec.trans (State.whenSpanFits_of_not_fits t n.succ_ne_zero (Nat.lt_succ_of_le h))
  exact ⟨hfault, fun hgk hsp => transact_of_exec_fault hsp (decodeOp_of_gkTier htier hgk) hfault⟩

/-! ### LD B (R163) -/

/-- Each quotient by a power of ten is a decimal digit, so none is cut to a byte. -/
theorem decimalDigits_toNat (b : Byte) :
    ((decimalDigits b).getD 0 blankByte).toNat = b.toNat / 100 ∧
    ((decimalDigits b).getD 1 blankByte).toNat = b.toNat / 10 % 10 ∧
    ((decimalDigits b).getD 2 blankByte).toNat = b.toNat % 10 := by
  have hb := b.isLt
  have htoNat {n : Nat} (hn : n < 256) : (BitVec.ofNat 8 n).toNat = n :=
    (BitVec.toNat_ofNat n 8).trans (Nat.mod_eq_of_lt hn)
  refine ⟨htoNat ?_, htoNat ?_, htoNat ?_⟩ <;> omega

/-- Settles O47: with all three bytes in memory LD B is ready, and its effect is the write of the digits at I; otherwise its
range check fails. -/
theorem storeDecimalDigits : Obligations.StoreDecimalDigits := by
  intro x s
  refine ⟨gkTier_ldBVx x, fun hfits => ?store, outOfRange_of_not_fits (gkTier_ldBVx x) rfl⟩
  case store =>
    have hbyte (k : Nat) (hk : k < 3) : (effect (.ldBVx x) s).byteAt (s.index.toNat + k) =
        (decimalDigits (s.getV x)).getD k blankByte := s.byteAt_setBytes_of_lt _ hk
    obtain ⟨h100, h10, h1⟩ := decimalDigits_toNat (s.getV x)
    refine ⟨effect (.ldBVx x) s, exec_of_ready hfits, ?hundreds, ?tens, ?units,
      s.keptOutside_setBytes _ (decimalDigits (s.getV x)), ?pc, ?frame⟩
    case hundreds => exact (congrArg BitVec.toNat (hbyte 0 (by decide))).trans h100
    case tens => exact (congrArg BitVec.toNat (hbyte 1 (by decide))).trans h10
    case units => exact (congrArg BitVec.toNat (hbyte 2 (by decide))).trans h1
    case pc => exact congrArg (· + 2) (s.setBytes_pc _ _)
    case frame => exact (s.frame_setBytes [] (by decide) _ _).trans (State.frame_advance _ _ _)

/-! ### LD [I], Vx and LD Vx, [I] (R164, R165) -/

theorem State.indexAfterTransfer_toNat (s : State) (x : RegIx) :
    (s.indexAfterTransfer x).toNat =
      if s.cfg.ldstIncI = true then (s.index.toNat + x.val + 1) % 65536 else s.index.toNat := by
  rw [State.indexAfterTransfer]
  split
  · rw [BitVec.toNat_add, BitVec.toNat_ofNat, Nat.add_mod_mod, Nat.add_assoc]
  · rfl

/-- Settles O48: with every byte in memory LD [I], Vx is ready, and its effect is the write of V[0] to V[X] at I and then of
I; otherwise its range check fails. -/
theorem storeRegisters : Obligations.StoreRegisters := by
  intro x s
  refine ⟨gkTier_ldMemVx x, fun hfits => ?store, outOfRange_of_not_fits (gkTier_ldMemVx x) rfl⟩
  case store =>
    refine ⟨effect (.ldMemVx x) s, exec_of_ready hfits, fun j hj => ?byte, ?outside, s.indexAfterTransfer_toNat x, ?pc,
      ?frame⟩
    case byte =>
      have hlt : j.val < (s.regsUpTo x).length := by rw [State.regsUpTo_length]; exact Nat.lt_succ_of_le hj
      exact (s.byteAt_setBytes_of_lt _ hlt).trans (s.regsUpTo_getD x hj blankByte)
    case outside => exact s.regsUpTo_length x ▸ s.keptOutside_setBytes _ (s.regsUpTo x)
    case pc => exact congrArg (· + 2) (s.setBytes_pc _ _)
    case frame =>
      exact ((s.frame_setBytes [] (by decide) _ _).trans (State.frame_setIndex _ (by decide) _ _)).trans
        (State.frame_advance _ _ _)

/-- Writing all registers changes those alone whose new byte is another one. -/
theorem State.frame_setAllV {regs : List RegIx} (parts : List Part) {s : State} {f : RegIx → Byte}
    (h : ∀ j, j ∉ regs → f j = s.getV j) : Frame regs parts s (s.setAllV f) :=
  ⟨fun j hj => (s.setAllV_getV f j).trans (h j hj), fun p _ => by cases p <;> simp [Part.same]⟩

/-- Settles O49: with every byte in memory LD Vx, [I] is ready, and its effect is the write of the bytes at I to V[0] to V[X]
and then of I; otherwise its range check fails. -/
theorem loadRegisters : Obligations.LoadRegisters := by
  intro x s
  refine ⟨gkTier_ldVxMem x, fun hfits => ?load, outOfRange_of_not_fits (gkTier_ldVxMem x) rfl⟩
  case load =>
    have hreg (j : RegIx) : (effect (.ldVxMem x) s).getV j =
        if j ≤ x then s.byteAt (s.index.toNat + j.val) else s.getV j := State.setAllV_getV s _ j
    refine ⟨effect (.ldVxMem x) s, exec_of_ready hfits, fun j hj => ?loaded, fun j hj => ?kept,
      s.indexAfterTransfer_toNat x, rfl, ?frame⟩
    case loaded => exact (hreg j).trans (if_pos hj)
    case kept => exact (hreg j).trans (if_neg (not_le.mpr hj))
    case frame =>
      refine ((State.frame_setAllV _ fun j hj => if_neg ?_).trans (State.frame_setIndex _ (by decide) _ _)).trans
        (State.frame_advance _ _ _)
      exact fun hle => hj (List.mem_filter.mpr ⟨List.mem_finRange j, decide_eq_true hle⟩)

end Sys2Proof.Machine
end

section
namespace Sys2Proof.Machine

/-! ### The tier of the timers' and the key wait's opcodes -/

theorem gkTier_ldVxDt (x : RegIx) : GkTier (wordXNN 0xF x 0x07) (.ldVxDt x) :=
  gkTier_wordXNN_fifteen (fun _ hnn => by rw [decodeFamilyF, hnn]; rfl) x

theorem gkTier_ldVxK (x : RegIx) : GkTier (wordXNN 0xF x 0x0A) (.ldVxK x) :=
  gkTier_wordXNN_fifteen (fun _ hnn => by rw [decodeFamilyF, hnn]; rfl) x

theorem gkTier_ldDtVx (x : RegIx) : GkTier (wordXNN 0xF x 0x15) (.ldDtVx x) :=
  gkTier_wordXNN_fifteen (fun _ hnn => by rw [decodeFamilyF, hnn]; rfl) x

theorem gkTier_ldStVx (x : RegIx) : GkTier (wordXNN 0xF x 0x18) (.ldStVx x) :=
  gkTier_wordXNN_fifteen (fun _ hnn => by rw [decodeFamilyF, hnn]; rfl) x

/-! ### LD Vx, K (R182) -/

theorem effect_ldVxK_of_lowestKey_some {s : State} {k : RegIx} (x : RegIx) (h : s.lowestKey = some k) :
    effect (.ldVxK x) s = (s.setV x (BitVec.ofNat 8 k.val)).advance := by
  rw [effect, h]

theorem effect_ldVxK_of_lowestKey_none {s : State} (x : RegIx) (h : s.lowestKey = none) : effect (.ldVxK x) s = s := by
  rw [effect, h]

/-- A key number fits in a byte. -/
theorem keyNumber_toNat (k : RegIx) : (BitVec.ofNat 8 k.val).toNat = k.val :=
  (BitVec.toNat_ofNat k.val 8).trans (Nat.mod_eq_of_lt (k.isLt.trans (by decide)))

/-- Settles O53: LD Vx, K is always ready; the lowest pressed key is the one its scan finds, and its effect is then the write
of that key's number to V[X]; with no key pressed the scan finds none, and the effect is the state itself. -/
theorem keyWaitTakesLowestKey : Obligations.KeyWaitTakesLowestKey := by
  intro x s
  refine ⟨gkTier_ldVxK x, fun k hdown hlow => ?pressed, fun hup => ?waiting⟩
  case pressed =>
    have hscan : s.lowestKey = some k := State.lowestKey_some.mpr ⟨hdown, hlow⟩
    obtain ⟨t, hexec, hkey, hpc, hframe⟩ := exec_setV (i := .ldVxK x) trivial (effect_ldVxK_of_lowestKey_some x hscan)
    exact ⟨t, hexec, (congrArg BitVec.toNat hkey).trans (keyNumber_toNat k), hpc, hframe⟩
  case waiting =>
    have hscan : s.lowestKey = none := s.lowestKey_none.mpr hup
    rw [exec_of_ready (i := .ldVxK x) trivial, effect_ldVxK_of_lowestKey_none x hscan]

/-! ### LD Vx, DT (R181) -/

/-- Settles O52: LD Vx, DT is always ready, and its effect is the write of DT to V[X]. -/
theorem readDelayTimer : Obligations.ReadDelayTimer := by
  intro x s
  exact ⟨gkTier_ldVxDt x, exec_setV trivial rfl⟩

/-! ### LD DT, Vx and LD ST, Vx (R183, R184): the write of a timer changes that timer alone -/

theorem State.frame_setDt (regs : List RegIx) {parts : List Part} (h : .dt ∈ parts) (s : State) (b : Byte) :
    Frame regs parts s (s.setDt b) := by
  refine ⟨fun j _ => s.setDt_getV b j, fun p hp => ?_⟩
  cases p
  case dt => exact absurd h hp
  all_goals simp [Part.same]

theorem State.frame_setSt (regs : List RegIx) {parts : List Part} (h : .st ∈ parts) (s : State) (b : Byte) :
    Frame regs parts s (s.setSt b) := by
  refine ⟨fun j _ => s.setSt_getV b j, fun p hp => ?_⟩
  cases p
  case st => exact absurd h hp
  all_goals simp [Part.same]

/-- Settles O54: both are always ready, and their effect is the write of V[X] to the timer and the normal advance. -/
theorem setTimers : Obligations.SetTimers := by
  intro x s
  refine ⟨gkTier_ldDtVx x, gkTier_ldStVx x, ?delay, ?sound⟩
  case delay =>
    refine ⟨(s.setDt (s.getV x)).advance, exec_of_ready (i := .ldDtVx x) trivial, rfl, rfl, ?frame⟩
    case frame => exact (s.frame_setDt [] (by decide) _).trans (State.frame_advance _ _ _)
  case sound =>
    refine ⟨(s.setSt (s.getV x)).advance, exec_of_ready (i := .ldStVx x) trivial, rfl, rfl, ?frame⟩
    case frame => exact (s.frame_setSt [] (by decide) _).trans (State.frame_advance _ _ _)

end Sys2Proof.Machine
end

section
namespace Sys2Proof

/-! ### The opcode of DRW (R75) -/

theorem decodeGk_wordXYN_thirteen (x y : RegIx) (n : Nibble) :
    decodeGk (wordXYN 0xD x y n) = .ok (.drwVxVyNibble x y n) := by
  rw [decodeGk, family_wordXYN, nField_wordXYN, xRegister_wordXYN, yRegister_wordXYN]; rfl

end Sys2Proof
end

section
namespace Sys2Proof.Machine

theorem gkTier_drwVxVyNibble (x y : RegIx) (n : Nibble) : GkTier (wordXYN 0xD x y n) (.drwVxVyNibble x y n) :=
  gkTier_of_decodeGk (by rw [family_wordXYN]; decide) (decodeGk_wordXYN_thirteen x y n)

/-! ### The closed form of a sprite's cells (R190): column and row offsets from the start, one pixel of the sprite each -/

/-- The pixel at (a, b) lands on the cell at column `px`, row `py` when they agree modulo the display. -/
theorem mem_plotCells_wrap {a b px py : Nat} (hpx : px < 64) :
    py * 64 + px ∈ plotCells .wrap a b ↔ a % 64 = px ∧ b % 32 = py := by
  simp only [plotCells, List.mem_singleton, displayW, displayH]; omega

/-- The pixel at (a, b) lands on the cell at its own column and row or nowhere. -/
theorem mem_plotCells_clip {a b px py : Nat} (hpx : px < 64) (hpy : py < 32) :
    py * 64 + px ∈ plotCells .clip a b ↔ a = px ∧ b = py := by
  simp only [plotCells, displayW, displayH]
  split
  case isTrue hout => exact iff_of_false List.not_mem_nil (by omega)
  case isFalse hin => rw [List.mem_singleton]; omega

/-- A covered cell is one where a set sprite pixel lands: the offsets of the cell from the start are that pixel's row and
column. -/
theorem spriteCovers_iff {edge : DrawEdge} {x0 y0 n px py : Nat} {row : Nat → Byte} (hx0 : x0 < 64) (hy0 : y0 < 32)
    (hn : n < 32) (hpx : px < 64) (hpy : py < 32) :
    spriteCovers edge x0 y0 n row px py = true ↔
      ∃ r c, r < n ∧ c < 8 ∧ spriteBit (row r) c = true ∧ py * 64 + px ∈ plotCells edge (x0 + c) (y0 + r) := by
  cases edge with
  | wrap =>
    simp only [spriteCovers, Bool.and_eq_true, decide_eq_true_eq, mem_plotCells_wrap hpx, displayW, displayH]
    constructor
    · rintro ⟨⟨hc, hr⟩, hbit⟩
      exact ⟨_, _, hr, hc, hbit, by omega, by omega⟩
    · rintro ⟨r, c, hr, hc, hbit, hcol, hrow⟩
      obtain rfl : c = (px + 64 - x0) % 64 := by omega
      obtain rfl : r = (py + 32 - y0) % 32 := by omega
      exact ⟨⟨hc, hr⟩, hbit⟩
  | clip =>
    simp only [spriteCovers, Bool.and_eq_true, decide_eq_true_eq, mem_plotCells_clip hpx hpy]
    constructor
    · rintro ⟨⟨⟨⟨hx, hc⟩, hy⟩, hr⟩, hbit⟩
      exact ⟨_, _, hr, hc, hbit, by omega, by omega⟩
    · rintro ⟨r, c, hr, hc, hbit, rfl, rfl⟩
      rw [Nat.add_sub_cancel_left, Nat.add_sub_cancel_left]
      exact ⟨⟨⟨⟨Nat.le_add_right x0 c, hc⟩, Nat.le_add_right y0 r⟩, hr⟩, hbit⟩

/-! ### What a draw does to the display (R190) -/

/-- The cells that DRW with `n` rows covers, in closed form. -/
def State.drawCovers (s : State) (x y : RegIx) (n px py : Nat) : Bool :=
  spriteCovers s.cfg.drawEdge (originX (s.getV x)) (originY (s.getV y)) n (fun r => s.byteAt (s.index.toNat + r)) px py

/-- The cells the draw flips, one after the other. -/
def State.drawnCells (s : State) (x y : RegIx) (n : Nat) : List Nat :=
  spriteCells s.cfg.drawEdge (originX (s.getV x)) (originY (s.getV y)) (s.spriteRows n)

theorem State.drawnCells_lt {s : State} {x y : RegIx} {n k : Nat} (h : k ∈ s.drawnCells x y n) : k < 64 * 32 := by
  obtain ⟨r, c, _, _, _, hk⟩ := mem_spriteCells.mp h
  exact plotCells_lt hk

theorem State.mem_drawnCells {s : State} {x y : RegIx} {n px py : Nat} (hn : n < 32) (hpx : px < 64) (hpy : py < 32) :
    py * 64 + px ∈ s.drawnCells x y n ↔ s.drawCovers x y n px py = true := by
  have hx0 : originX (s.getV x) < 64 := Nat.mod_lt _ (by decide)
  have hy0 : originY (s.getV y) < 32 := Nat.mod_lt _ (by decide)
  rw [drawnCells, mem_spriteCells, drawCovers, spriteCovers_iff hx0 hy0 hn hpx hpy, State.spriteRows_length]
  refine exists_congr fun r => exists_congr fun c => and_congr_right fun hr => ?_
  rw [State.spriteRows_getD s hr]

theorem State.drawSprite_cell (s : State) (x y : RegIx) {n px py : Nat} (hn : n < 32) (hpx : px < 64) (hpy : py < 32) :
    (s.drawSprite x y n).disp.cell (py * 64 + px) = (s.cell (py * 64 + px) ^^ s.drawCovers x y n px py) := by
  have hlen : (s.spriteRows n).length < 32 := by rwa [State.spriteRows_length]
  have hflip : (s.drawSprite x y n).disp.cell (py * 64 + px) =
      (s.cell (py * 64 + px) ^^ decide (py * 64 + px ∈ s.drawnCells x y n)) := (Canvas.drawRows_spec _ _ _ _ _ hlen).1 _
  simp only [hflip, State.mem_drawnCells hn hpx hpy, Bool.decide_eq_true]

/-- A collision is a covered cell that was set (R190: "at least one cell went from 1 to 0"). -/
theorem State.drawSprite_collide_iff (s : State) (x y : RegIx) {n : Nat} (hn : n < 32) :
    (s.drawSprite x y n).collide = true ↔
      ∃ px py, px < 64 ∧ py < 32 ∧ s.drawCovers x y n px py = true ∧ s.cell (py * 64 + px) = true := by
  have hlen : (s.spriteRows n).length < 32 := by rwa [State.spriteRows_length]
  have hdrawn : (s.drawSprite x y n).collide = true ↔ ∃ k ∈ s.drawnCells x y n, s.cell k = true :=
    (Canvas.drawRows_spec _ _ _ _ _ hlen).2.trans (or_iff_right Bool.false_ne_true)
  rw [hdrawn]
  constructor
  · rintro ⟨k, hk, hset⟩
    have hlt := State.drawnCells_lt hk
    have hpx : k % 64 < 64 := Nat.mod_lt _ (by decide)
    have hpy : k / 64 < 32 := Nat.div_lt_of_lt_mul hlt
    rw [← Nat.div_add_mod' k 64] at hk hset
    exact ⟨k % 64, k / 64, hpx, hpy, (State.mem_drawnCells hn hpx hpy).mp hk, hset⟩
  · rintro ⟨px, py, hpx, hpy, hcov, hset⟩
    exact ⟨py * 64 + px, (State.mem_drawnCells hn hpx hpy).mpr hcov, hset⟩

/-! ### DRW (R190) -/

/-- Settles O55: with every row in memory DRW is ready, and its effect is the write of the drawn display, then of the
collision to VF; otherwise its range check fails before any write. -/
theorem drawFlipsTheSpriteCells : Obligations.DrawFlipsTheSpriteCells := by
  intro x y n s
  refine ⟨gkTier_drwVxVyNibble x y n, fun covered hcovered => ⟨fun hfits => ?draw, fun hne hlt => ?outOfRange⟩⟩
  case draw =>
    have hn : n.toNat < 32 := n.isLt.trans (by decide)
    have hready : Ready (.drwVxVyNibble x y n) s := hfits.imp_left (congrArg BitVec.toNat)
    obtain rfl : covered = s.drawCovers x y n.toNat := hcovered
    have hflag : (effect (.drwVxVyNibble x y n) s).getV 15 = flagByte (s.drawSprite x y n.toNat).collide :=
      State.setV_getV_same _ flagReg _
    refine ⟨effect (.drwVxVyNibble x y n) s, exec_of_ready hready, fun px py => s.drawSprite_cell x y hn,
      fun hset => ?collision, fun hdark => ?noCollision, rfl, ?frame⟩
    case collision => rw [hflag, (s.drawSprite_collide_iff x y hn).mpr hset]; rfl
    case noCollision =>
      have hnot : ¬ (s.drawSprite x y n.toNat).collide = true := by
        intro hcollide
        obtain ⟨px, py, hpx, hpy, hcov, hset⟩ := (s.drawSprite_collide_iff x y hn).mp hcollide
        exact Bool.false_ne_true ((hdark px py hpx hpy hcov).symm.trans hset)
      rw [hflag, Bool.eq_false_iff.mpr hnot]; rfl
    case frame =>
      exact ((s.frame_setDisp [15] (List.mem_singleton_self Part.disp) _).trans
        (State.frame_setV (List.mem_singleton_self flagReg) _ _ _)).trans (State.frame_advance _ _ _)
  case outOfRange =>
    obtain ⟨m, hm⟩ := Nat.exists_eq_succ_of_ne_zero (BitVec.toNat_ne.mp hne)
    exact outOfRange_of_not_fits (gkTier_drwVxVyNibble x y n) (congrArg (s.whenSpanFits s.index.toNat · _) hm) (by omega)

end Sys2Proof.Machine
end

section
namespace Sys2Proof

/-! ### The opcode of RND (R75) -/

theorem decodeGk_wordXNN_twelve (x : RegIx) (nn : Byte) : decodeGk (wordXNN 0xC x nn) = .ok (.rndVxByte x nn) := by
  rw [decodeGk, family_wordXNN, xRegister_wordXNN, nnField_wordXNN]; rfl

end Sys2Proof
end

section
namespace Sys2Proof.Machine

/-! ### Decode of encode (R70 to R77) -/

theorem gkTier_rndVxByte (x : RegIx) (nn : Byte) : GkTier (wordXNN 0xC x nn) (.rndVxByte x nn) :=
  gkTier_of_decodeGk (by rw [family_wordXNN]; decide) (decodeGk_wordXNN_twelve x nn)

/-- The opcode of a well-formed instruction is its own, in the tier of its row. -/
theorem tier_encode : ∀ i : Instr, i.wf = true → if i.isGk then GkTier (encode i) i else SourceTier (encode i) i
  | .sys nnn, hwf => by
    obtain ⟨hcls, hret⟩ : nnn ≠ 0x0E0 ∧ nnn ≠ 0x0EE := by simpa [Instr.wf] using hwf
    exact sourceTier_sys hcls hret
  | .cls, _ => sourceTier_cls
  | .ret, _ => sourceTier_ret
  | .jpAddr nnn, _ => sourceTier_jpAddr nnn
  | .callAddr nnn, _ => sourceTier_callAddr nnn
  | .seVxByte x nn, _ => sourceTier_seVxByte x nn
  | .sneVxByte x nn, _ => sourceTier_sneVxByte x nn
  | .seVxVy x y, _ => sourceTier_seVxVy x y
  | .ldVxByte x nn, _ => sourceTier_ldVxByte x nn
  | .addVxByte x nn, _ => sourceTier_addVxByte x nn
  | .ldVxVy x y, _ => sourceTier_ldVxVy x y
  | .orVxVy x y, _ => sourceTier_orVxVy x y
  | .andVxVy x y, _ => sourceTier_andVxVy x y
  | .xorVxVy x y, _ => sourceTier_xorVxVy x y
  | .addVxVy x y, _ => sourceTier_addVxVy x y
  | .subVxVy x y, _ => sourceTier_subVxVy x y
  | .shrVxVy x y, _ => sourceTier_shrVxVy x y
  | .subnVxVy x y, _ => sourceTier_subnVxVy x y
  | .shlVxVy x y, _ => sourceTier_shlVxVy x y
  | .sneVxVy x y, _ => gkTier_sneVxVy x y
  | .ldIAddr nnn, _ => gkTier_ldIAddr nnn
  | .jpV0Addr nnn, _ => gkTier_jpV0Addr nnn
  | .rndVxByte x nn, _ => gkTier_rndVxByte x nn
  | .drwVxVyNibble x y n, _ => gkTier_drwVxVyNibble x y n
  | .skpVx x, _ => gkTier_skpVx x
  | .sknpVx x, _ => gkTier_sknpVx x
  | .ldVxDt x, _ => gkTier_ldVxDt x
  | .ldVxK x, _ => gkTier_ldVxK x
  | .ldDtVx x, _ => gkTier_ldDtVx x
  | .ldStVx x, _ => gkTier_ldStVx x
  | .addIVx x, _ => gkTier_addIVx x
  | .ldFVx x, _ => gkTier_ldFVx x
  | .ldBVx x, _ => gkTier_ldBVx x
  | .ldMemVx x, _ => gkTier_ldMemVx x
  | .ldVxMem x, _ => gkTier_ldVxMem x

theorem decodeOp_encode {gk : Bool} {i : Instr} (hwf : i.wf = true) (hadm : i.admitted gk = true) :
    decodeOp gk (encode i) = .ok i := by
  have htier := tier_encode i hwf
  split at htier
  case isTrue hgk => exact decodeOp_of_gkTier htier (by simpa [Instr.admitted, hgk] using hadm)
  case isFalse => exact htier gk

/-- Settles O3: the encoder's two bytes join to the opcode, and the opcode is the instruction's in the tier of its row. -/
theorem decodeOfEncodeIsInstruction : Obligations.DecodeOfEncodeIsInstruction := by
  intro gk i rest hwf hadm
  simp only [encodeBytes, List.cons_append, List.nil_append, decode, joinBytes_highByte_lowByte,
    decodeOp_encode hwf hadm]

end Sys2Proof.Machine
end


section
namespace Sys2Proof

/-! ### An opcode and its fields: which words a pattern of the opcode table stands for -/

section fields
variable {f n : Nibble} {x y : RegIx} {nn : Byte} {nnn : Addr} {op : Word}

theorem wordXYN_eq_iff : wordXYN f x y n = op ↔
    op.toNat / 4096 = f.toNat ∧ xRegister op = x ∧ yRegister op = y ∧ op.toNat % 16 = n.toNat := by
  rw [← BitVec.toNat_inj, wordXYN_toNat, Fin.ext_iff, Fin.ext_iff]
  simp only [xRegister, yRegister]; omega

theorem wordXNN_eq_iff : wordXNN f x nn = op ↔
    op.toNat / 4096 = f.toNat ∧ xRegister op = x ∧ op.toNat % 256 = nn.toNat := by
  rw [← BitVec.toNat_inj, wordXNN_toNat, Fin.ext_iff]
  simp only [xRegister]; omega

theorem wordNNN_eq_iff : wordNNN f nnn = op ↔ op.toNat / 4096 = f.toNat ∧ op.toNat % 4096 = nnn.toNat := by
  rw [← BitVec.toNat_inj, wordNNN_toNat]; omega

theorem wordXYN_of_fields (hf : family op = f.toNat) (hn : (nField op).toNat = n.toNat) :
    wordXYN f (xRegister op) (yRegister op) n = op :=
  wordXYN_eq_iff.mpr ⟨hf, rfl, rfl, (nField_toNat op).symm.trans hn⟩

theorem wordXNN_of_fields (hf : family op = f.toNat) (hnn : (nnField op).toNat = nn.toNat) :
    wordXNN f (xRegister op) nn = op :=
  wordXNN_eq_iff.mpr ⟨hf, rfl, (nnField_toNat op).symm.trans hnn⟩

theorem wordNNN_of_fields (hf : family op = f.toNat) : wordNNN f (nnnField op) = op :=
  wordNNN_eq_iff.mpr ⟨hf, (nnnField_toNat op).symm⟩

end fields

/-! ### Encode of decode: each branch of the tree reads the fields that its row's pattern leaves free -/

/-- The opcode is that of an instruction, which is well formed and of the tier `gk`. -/
def OpcodeOf (gk : Bool) (op : Word) (i : Instr) : Prop := encode i = op ∧ i.wf = true ∧ i.isGk = gk

section inversion
variable {op : Word} {i : Instr}

theorem decodeFamily0_ok (hfam : family op = 0x0) (h : decodeFamily0 op = .ok i) : OpcodeOf false op i := by
  have hop : wordNNN 0x0 (nnnField op) = op := wordNNN_of_fields hfam
  unfold decodeFamily0 at h
  split at h
  case isTrue hcls => cases h; exact ⟨hcls.symm, rfl, rfl⟩
  case isFalse hcls =>
    split at h
    case isTrue hret => cases h; exact ⟨hret.symm, rfl, rfl⟩
    case isFalse hret =>
      cases h
      have hcls' : nnnField op ≠ 0x0E0#12 := fun h => hcls (by rw [← hop, h]; rfl)
      have hret' : nnnField op ≠ 0x0EE#12 := fun h => hret (by rw [← hop, h]; rfl)
      exact ⟨hop, by simp [Instr.wf, hcls', hret'], rfl⟩

theorem decodeFamily8_ok (hfam : family op = 0x8) (h : decodeFamily8 op = .ok i) : OpcodeOf false op i := by
  unfold decodeFamily8 at h
  split at h <;> cases h
  all_goals exact ⟨wordXYN_of_fields hfam ‹(nField op).toNat = _›, rfl, rfl⟩

theorem decodeFamilyE_ok (hfam : family op = 0xE) (h : decodeFamilyE op = .ok i) : OpcodeOf true op i := by
  unfold decodeFamilyE at h
  split at h <;> cases h
  all_goals exact ⟨wordXNN_of_fields hfam ‹(nnField op).toNat = _›, rfl, rfl⟩

theorem decodeFamilyF_ok (hfam : family op = 0xF) (h : decodeFamilyF op = .ok i) : OpcodeOf true op i := by
  unfold decodeFamilyF at h
  split at h <;> cases h
  all_goals exact ⟨wordXNN_of_fields hfam ‹(nnField op).toNat = _›, rfl, rfl⟩

theorem decodeSource_ok (h : decodeSource op = .ok i) : OpcodeOf false op i := by
  unfold decodeSource at h
  split at h
  case h_1 hfam => exact decodeFamily0_ok hfam h
  case h_2 hfam | h_3 hfam => cases h; exact ⟨wordNNN_of_fields hfam, rfl, rfl⟩
  case h_4 hfam | h_5 hfam | h_7 hfam | h_8 hfam => cases h; exact ⟨wordXNN_of_fields hfam rfl, rfl, rfl⟩
  case h_6 hfam =>
    split at h
    case isTrue hn => cases h; exact ⟨wordXYN_of_fields hfam (congrArg BitVec.toNat hn), rfl, rfl⟩
    case isFalse => cases h
  case h_9 hfam => exact decodeFamily8_ok hfam h
  case h_10 => cases h

theorem decodeGk_ok (h : decodeGk op = .ok i) : OpcodeOf true op i := by
  unfold decodeGk at h
  split at h
  case h_1 hfam =>
    split at h
    case isTrue hn => cases h; exact ⟨wordXYN_of_fields hfam (congrArg BitVec.toNat hn), rfl, rfl⟩
    case isFalse => cases h
  case h_2 hfam | h_3 hfam => cases h; exact ⟨wordNNN_of_fields hfam, rfl, rfl⟩
  case h_4 hfam => cases h; exact ⟨wordXNN_of_fields hfam rfl, rfl, rfl⟩
  case h_5 hfam => cases h; exact ⟨wordXYN_of_fields hfam rfl, rfl, rfl⟩
  case h_6 hfam => exact decodeFamilyE_ok hfam h
  case h_7 hfam => exact decodeFamilyF_ok hfam h
  case h_8 => cases h

theorem encode_of_decodeOp {gk : Bool} (h : decodeOp gk op = .ok i) :
    encode i = op ∧ i.wf = true ∧ i.admitted gk = true := by
  unfold decodeOp at h
  split at h
  case isTrue =>
    obtain ⟨hop, hwf, htier⟩ := decodeSource_ok h
    exact ⟨hop, hwf, by simp [Instr.admitted, htier]⟩
  case isFalse =>
    split at h
    case isTrue hgk =>
      obtain ⟨hop, hwf, _⟩ := decodeGk_ok h
      exact ⟨hop, hwf, by simp [Instr.admitted, hgk]⟩
    case isFalse => cases h

end inversion

/-- Settles O4: each branch of the decode tree reads back the fields of its row's pattern. -/
theorem encodeOfDecodeIsOpcode : Obligations.EncodeOfDecodeIsOpcode := fun _ _ _ h => encode_of_decodeOp h

/-- The decoder and the encoder are inverse to each other. -/
theorem decodeOp_ok_iff {gk : Bool} {op : Word} {i : Instr} :
    decodeOp gk op = .ok i ↔ encode i = op ∧ i.wf = true ∧ i.admitted gk = true := by
  refine ⟨encode_of_decodeOp, ?_⟩
  rintro ⟨rfl, hwf, hadm⟩
  exact Machine.decodeOp_encode hwf hadm

theorem Laws.Row.statement : ∀ i : Instr, Laws.Row.Statement i
  | .sys nnn => sys nnn
  | .cls => cls
  | .ret => ret
  | .jpAddr nnn => jpAddr nnn
  | .callAddr nnn => callAddr nnn
  | .seVxByte x nn => seVxByte x nn
  | .sneVxByte x nn => sneVxByte x nn
  | .seVxVy x y => seVxVy x y
  | .ldVxByte x nn => ldVxByte x nn
  | .addVxByte x nn => addVxByte x nn
  | .ldVxVy x y => ldVxVy x y
  | .orVxVy x y => orVxVy x y
  | .andVxVy x y => andVxVy x y
  | .xorVxVy x y => xorVxVy x y
  | .addVxVy x y => addVxVy x y
  | .subVxVy x y => subVxVy x y
  | .shrVxVy x y => shrVxVy x y
  | .subnVxVy x y => subnVxVy x y
  | .shlVxVy x y => shlVxVy x y
  | .sneVxVy x y => sneVxVy x y
  | .ldIAddr nnn => ldIAddr nnn
  | .jpV0Addr nnn => jpV0Addr nnn
  | .rndVxByte x nn => rndVxByte x nn
  | .drwVxVyNibble x y n => drwVxVyNibble x y n
  | .skpVx x => skpVx x
  | .sknpVx x => sknpVx x
  | .ldVxDt x => ldVxDt x
  | .ldVxK x => ldVxK x
  | .ldDtVx x => ldDtVx x
  | .ldStVx x => ldStVx x
  | .addIVx x => addIVx x
  | .ldFVx x => ldFVx x
  | .ldBVx x => ldBVx x
  | .ldMemVx x => ldMemVx x
  | .ldVxMem x => ldVxMem x

/-- Settles O5: an opcode that decodes is the instruction's own, and that lies in the instruction's row. -/
theorem decodedOpcodeLiesInItsRow : Obligations.DecodedOpcodeLiesInItsRow := by
  intro gk op i h
  obtain ⟨rfl, _, _⟩ := encode_of_decodeOp h
  exact Laws.Row.statement i

end Sys2Proof
end

section
namespace Sys2Proof

/-! ### Where the decode tree ends in no row (R77, R78) -/

section errors
variable {op : Word} {e : DecodeError}

theorem decodeFamily0_ne_error : decodeFamily0 op ≠ .error e := by
  unfold decodeFamily0
  split
  · exact nofun
  · split <;> exact nofun

/-- The check of families 5 and 9 on the low nibble (D9). -/
theorem ite_nField_error_iff {i : Instr} :
    (if nField op = 0 then .ok i else .error (.unmapped op)) = Except.error e ↔
      e = .unmapped op ∧ op.toNat % 16 ≠ 0 := by
  have hzero : nField op = 0 ↔ op.toNat % 16 = 0 := by rw [← BitVec.toNat_inj, nField_toNat]; rfl
  simp only [hzero]
  split
  case isTrue hn => exact iff_of_false nofun fun h => h.2 hn
  case isFalse hn => rw [Except.error.injEq, eq_comm]; exact (and_iff_left hn).symm

theorem decodeFamily8_error_iff : decodeFamily8 op = .error e ↔
    e = .unmapped op ∧ 8 ≤ op.toNat % 16 ∧ op.toNat % 16 ≠ 0xE := by
  unfold decodeFamily8
  rw [nField_toNat]
  split
  case h_10 =>
    rw [Except.error.injEq, eq_comm]
    simp only [imp_false] at *
    exact (and_iff_left (by omega)).symm
  all_goals exact iff_of_false nofun (by omega)

theorem decodeFamilyE_error_iff : decodeFamilyE op = .error e ↔
    e = .unmapped op ∧ op.toNat % 256 ≠ 0x9E ∧ op.toNat % 256 ≠ 0xA1 := by
  unfold decodeFamilyE
  rw [nnField_toNat]
  split
  case h_3 h9E hA1 => rw [Except.error.injEq, eq_comm]; exact (and_iff_left ⟨h9E, hA1⟩).symm
  all_goals exact iff_of_false nofun (by omega)

theorem decodeFamilyF_error_iff : decodeFamilyF op = .error e ↔
    e = .unmapped op ∧ op.toNat % 256 ∉ [0x07, 0x0A, 0x15, 0x18, 0x1E, 0x29, 0x33, 0x55, 0x65] := by
  unfold decodeFamilyF
  rw [nnField_toNat]
  split
  case h_10 =>
    rw [Except.error.injEq, eq_comm]
    simp only [imp_false] at *
    exact (and_iff_left (by simp [*])).symm
  all_goals exact iff_of_false nofun (by simp [*])

/-- The unassigned opcodes of the source tier. -/
theorem decodeSource_error_iff (hfam : op.toNat / 4096 ≤ 8) : decodeSource op = .error e ↔
    e = .unmapped op ∧ ((op.toNat / 4096 = 5 ∧ op.toNat % 16 ≠ 0) ∨
      (op.toNat / 4096 = 8 ∧ 8 ≤ op.toNat % 16 ∧ op.toNat % 16 ≠ 0xE)) := by
  unfold decodeSource family
  split
  case h_1 => exact iff_of_false decodeFamily0_ne_error (by omega)
  case h_6 h => rw [ite_nField_error_iff]; exact and_congr_right fun _ => by omega
  case h_9 h => rw [decodeFamily8_error_iff]; exact and_congr_right fun _ => by omega
  case h_10 => simp only [imp_false] at *; omega
  all_goals exact iff_of_false nofun (by omega)

/-- The unassigned opcodes of the general-knowledge tier. -/
theorem decodeGk_error_iff (hfam : 9 ≤ op.toNat / 4096) : decodeGk op = .error e ↔
    e = .unmapped op ∧ ((op.toNat / 4096 = 9 ∧ op.toNat % 16 ≠ 0) ∨
      (op.toNat / 4096 = 0xE ∧ op.toNat % 256 ≠ 0x9E ∧ op.toNat % 256 ≠ 0xA1) ∨
      (op.toNat / 4096 = 0xF ∧ op.toNat % 256 ∉ [0x07, 0x0A, 0x15, 0x18, 0x1E, 0x29, 0x33, 0x55, 0x65])) := by
  unfold decodeGk family
  split
  case h_1 h => rw [ite_nField_error_iff]; exact and_congr_right fun _ => by omega
  case h_6 h => rw [decodeFamilyE_error_iff]; exact and_congr_right fun _ => by omega
  case h_7 h => rw [decodeFamilyF_error_iff]; exact and_congr_right fun _ => by simp [h]
  case h_8 => have := op.isLt; simp only [imp_false] at *; omega
  all_goals exact iff_of_false nofun (by omega)

/-- The unassigned opcodes of R78, and the families that a shut gate leaves out (R77). -/
def Unassigned (gk : Bool) (op : Word) : Prop :=
  (op.toNat / 4096 = 5 ∧ op.toNat % 16 ≠ 0) ∨
  (op.toNat / 4096 = 8 ∧ 8 ≤ op.toNat % 16 ∧ op.toNat % 16 ≠ 0xE) ∨
  (9 ≤ op.toNat / 4096 ∧ gk = false) ∨
  (op.toNat / 4096 = 9 ∧ op.toNat % 16 ≠ 0) ∨
  (op.toNat / 4096 = 0xE ∧ op.toNat % 256 ≠ 0x9E ∧ op.toNat % 256 ≠ 0xA1) ∨
  (op.toNat / 4096 = 0xF ∧ op.toNat % 256 ∉ [0x07, 0x0A, 0x15, 0x18, 0x1E, 0x29, 0x33, 0x55, 0x65])

theorem decodeOp_error_iff {gk : Bool} : decodeOp gk op = .error e ↔ e = .unmapped op ∧ Unassigned gk op := by
  unfold Unassigned
  rcases Nat.lt_or_ge 8 (family op) with hfam | hfam
  · cases gk with
    | true =>
      rw [decodeOp_true_of_family_gt hfam, decodeGk_error_iff hfam]
      have h5 : op.toNat / 4096 ≠ 5 := by unfold family at hfam; omega
      have h8 : op.toNat / 4096 ≠ 8 := Nat.ne_of_gt hfam
      simp only [h5, h8, false_and, false_or, Bool.true_eq_false, and_false]
    | false =>
      rw [decodeOp_false_of_family_gt hfam, Except.error.injEq, eq_comm]
      exact (and_iff_left (.inr (.inr (.inl ⟨hfam, rfl⟩)))).symm
  · rw [decodeOp_of_family_le gk hfam, decodeSource_error_iff hfam]
    exact and_congr_right fun _ => by unfold family at hfam; omega

end errors

/-- R76: the exact values 00E0 and 00EE are no SYS. -/
theorem decodeOp_sys_iff {gk : Bool} {op : Word} {nnn : Addr} : decodeOp gk op = .ok (.sys nnn) ↔
    op.toNat / 4096 = 0 ∧ op ≠ 0x00E0 ∧ op ≠ 0x00EE ∧ nnn.toNat = op.toNat % 4096 := by
  have hopcode : encode (.sys nnn) = op ↔ op.toNat / 4096 = 0 ∧ op.toNat % 4096 = nnn.toNat := wordNNN_eq_iff
  have hadm : (Instr.sys nnn).admitted gk = true := by simp [Instr.admitted, Instr.isGk]
  have hwf : (Instr.sys nnn).wf = true ↔ nnn ≠ 0x0E0 ∧ nnn ≠ 0x0EE := by simp [Instr.wf]
  rw [decodeOp_ok_iff, hopcode, hwf, and_iff_left hadm]
  simp only [← BitVec.toNat_ne_iff_ne, BitVec.ofNat_eq_ofNat, BitVec.toNat_ofNat]
  omega

/-- Settles O6: the decode tree's errors, branch by branch, and the catch-all of family 0. -/
theorem unassignedOpcodesAreUnmapped : Obligations.UnassignedOpcodesAreUnmapped := by
  intro gk op
  exact ⟨decodeOp_error_iff.trans (and_iff_right rfl), fun _ => decodeOp_sys_iff, fun _ h => (decodeOp_error_iff.mp h).1⟩

/-- Settles O2: the twelve words, each through the decode tree. -/
theorem writtenOutWordsDecode : Obligations.WrittenOutWordsDecode := by
  unfold Obligations.WrittenOutWordsDecode
  decide

end Sys2Proof
end

section
namespace Sys2Proof

/-! ### Which opcodes decode to an instruction of either tier (R77) -/

theorem decodeOp_source_iff {gk : Bool} {op : Word} {i : Instr} (hwf : i.wf = true) (htier : i.isGk = false) :
    decodeOp gk op = .ok i ↔ encode i = op := by
  simp [decodeOp_ok_iff, Instr.admitted, hwf, htier]

theorem decodeOp_gk_iff {gk : Bool} {op : Word} {i : Instr} (hwf : i.wf = true) (htier : i.isGk = true) :
    decodeOp gk op = .ok i ↔ encode i = op ∧ gk = true := by
  simp [decodeOp_ok_iff, Instr.admitted, hwf, htier]

end Sys2Proof
end

section
namespace Sys2Proof.Machine

/-! ### The outcomes of a step -/

/-- Settles O7: the two bytes at pc are the opcode fetched, and the dispatch runs what it decodes to. -/
theorem stepRunsDecodedInstruction : Obligations.StepRunsDecodedInstruction := by
  intro s i hsp hlt hd
  rw [step_of_fetched hsp (State.fetch_of_lt hlt)]
  apply dispatch_of_decoded hsp
  rw [decode] at hd
  split at hd
  case h_1 hop => cases hd; exact hop
  case h_2 => cases hd

theorem dispatch_not_refused {op : Word} {s : State} {r : Refusal} (hsp : s.sp ≤ s.stackDepth) :
    dispatch op s ≠ .refused r := by
  cases hd : decodeOp s.cfg.gkOpcodes op with
  | ok i => rw [dispatch_of_decoded hsp hd]; exact exec_not_refused hsp
  | error e => rw [dispatch_of_undecoded hsp hd]; exact nofun

theorem step_not_refused {s : State} {r : Refusal} (hsp : s.sp ≤ s.stackDepth) : step s ≠ .refused r := by
  cases hf : s.fetch with
  | some op => rw [step_of_fetched hsp hf]; exact dispatch_not_refused hsp
  | none => rw [step_of_unfetched hsp hf]; exact nofun

/-- Settles O9: with sp in range neither the fetch nor the dispatch refuses; with sp out of range the step does, first. -/
theorem refusedExactlyWhenSpOutOfRange : Obligations.RefusedExactlyWhenSpOutOfRange := by
  intro s r
  rcases Nat.lt_or_ge s.stackDepth s.sp with hgt | hsp
  · rw [step_of_bad_sp hgt, Host.Outcome.refused.injEq]
    exact eq_comm.trans (and_iff_right hgt).symm
  · exact iff_of_false (step_not_refused hsp) fun h => Nat.not_lt.mpr hsp h.1

/-! ### The errors of a dispatch -/

/-- The opcode and the state fail the range check of a data access (R52). -/
def RangeCheckFails (op : Word) (s : State) : Prop :=
  (op.toNat / 4096 = 0xF ∧ op.toNat % 256 = 0x33 ∧ s.cfg.memSize < s.index.toNat + 3) ∨
  (op.toNat / 4096 = 0xF ∧ (op.toNat % 256 = 0x55 ∨ op.toNat % 256 = 0x65) ∧
    s.cfg.memSize < s.index.toNat + (xRegister op).val + 1) ∨
  (op.toNat / 4096 = 0xD ∧ op.toNat % 16 ≠ 0 ∧ s.cfg.memSize < s.index.toNat + op.toNat % 16)

/-- The table of R200 for a dispatch: each error with its opcodes and its failing check. -/
def FaultCause (op : Word) (s : State) (f : Fault) : Prop :=
  (decodeOp s.cfg.gkOpcodes op = .error (.unmapped op) ∧ f = .unmappedInstruction op) ∨
  (op.toNat / 4096 = 0 ∧ op ≠ 0x00E0 ∧ op ≠ 0x00EE ∧ f = .unsupportedInstruction op) ∨
  (op.toNat / 4096 = 2 ∧ s.sp = s.stackDepth ∧ f = .stackViolation .overflow op) ∨
  (op = 0x00EE ∧ s.sp = 0 ∧ f = .stackViolation .underflow op) ∨
  (s.cfg.gkOpcodes = true ∧ op.toNat / 4096 = 0xE ∧ (op.toNat % 256 = 0x9E ∨ op.toNat % 256 = 0xA1) ∧
    16 ≤ (s.getV (xRegister op)).toNat ∧ f = .outOfRange (s.getV (xRegister op)).toNat) ∨
  (s.cfg.gkOpcodes = true ∧ f = .outOfRange (max s.index.toNat s.cfg.memSize) ∧ RangeCheckFails op s)

section causes
variable {op : Word} {s : State} {f : Fault} {i : Instr}

theorem dispatch_of_not_ready (hsp : s.sp ≤ s.stackDepth) (hd : decodeOp s.cfg.gkOpcodes op = .ok i) (hn : ¬ Ready i s)
    (hf : errorOf i s = some f) : dispatch op s = .fault f :=
  (dispatch_of_decoded hsp hd).trans (exec_of_errorOf hsp hn hf)

theorem FaultCause.of_key {x : RegIx} {nn : Byte} (hnn : nn.toNat = 0x9E ∨ nn.toNat = 0xA1) (hop : wordXNN 0xE x nn = op)
    (hgk : s.cfg.gkOpcodes = true) (hkey : 16 ≤ (s.getV x).toNat) (hf : f = .outOfRange (s.getV x).toNat) :
    FaultCause op s f := by
  obtain ⟨hfam, rfl, hlow⟩ := wordXNN_eq_iff.mp hop
  exact .inr (.inr (.inr (.inr (.inl ⟨hgk, hfam, hlow ▸ hnn, hkey, hf⟩))))

theorem FaultCause.of_span (hgk : s.cfg.gkOpcodes = true) (hf : f = .outOfRange (max s.index.toNat s.cfg.memSize))
    (h : RangeCheckFails op s) : FaultCause op s f :=
  .inr (.inr (.inr (.inr (.inr ⟨hgk, hf, h⟩))))

theorem RangeCheckFails.of_transfer {x : RegIx} {nn : Byte} (hnn : nn.toNat = 0x55 ∨ nn.toNat = 0x65)
    (hop : wordXNN 0xF x nn = op) (h : s.cfg.memSize < s.index.toNat + (x.val + 1)) : RangeCheckFails op s := by
  obtain ⟨hfam, rfl, hlow⟩ := wordXNN_eq_iff.mp hop
  exact .inr (.inl ⟨hfam, hlow ▸ hnn, h⟩)

/-- The error of each instruction that is not ready stands in the table. -/
theorem FaultCause.of_not_ready (hsp : s.sp ≤ s.stackDepth) (hd : decodeOp s.cfg.gkOpcodes op = .ok i)
    (hn : ¬ Ready i s) (hf : errorOf i s = some f) : FaultCause op s f := by
  cases i <;> cases hf
  case sys nnn =>
    obtain ⟨hfam, hcls, hret, _⟩ := decodeOp_sys_iff.mp hd
    obtain rfl := (encode_of_decodeOp hd).1
    exact .inr (.inl ⟨hfam, hcls, hret, rfl⟩)
  case callAddr nnn =>
    obtain rfl := (decodeOp_source_iff rfl rfl).mp hd
    exact .inr (.inr (.inl ⟨(wordNNN_eq_iff.mp rfl).1, Nat.le_antisymm hsp (Nat.not_lt.mp hn), rfl⟩))
  case ret =>
    obtain rfl := (decodeOp_source_iff rfl rfl).mp hd
    have hempty : s.sp = 0 := Nat.eq_zero_of_not_pos fun hpos => hn ⟨hpos, hsp⟩
    exact .inr (.inr (.inr (.inl ⟨rfl, hempty, rfl⟩)))
  case skpVx x =>
    obtain ⟨hop, hgk⟩ := (decodeOp_gk_iff rfl rfl).mp hd
    exact .of_key (.inl rfl) hop hgk (Nat.not_lt.mp hn) rfl
  case sknpVx x =>
    obtain ⟨hop, hgk⟩ := (decodeOp_gk_iff rfl rfl).mp hd
    exact .of_key (.inr rfl) hop hgk (Nat.not_lt.mp hn) rfl
  case ldBVx x =>
    obtain ⟨hop, hgk⟩ := (decodeOp_gk_iff rfl rfl).mp hd
    obtain ⟨hfam, _, hlow⟩ := wordXNN_eq_iff.mp hop
    exact .of_span hgk rfl (.inl ⟨hfam, hlow, Nat.not_le.mp hn⟩)
  case ldMemVx x =>
    obtain ⟨hop, hgk⟩ := (decodeOp_gk_iff rfl rfl).mp hd
    exact .of_span hgk rfl (.of_transfer (.inl rfl) hop (Nat.not_le.mp hn))
  case ldVxMem x =>
    obtain ⟨hop, hgk⟩ := (decodeOp_gk_iff rfl rfl).mp hd
    exact .of_span hgk rfl (.of_transfer (.inr rfl) hop (Nat.not_le.mp hn))
  case drwVxVyNibble x y n =>
    obtain ⟨hop, hgk⟩ := (decodeOp_gk_iff rfl rfl).mp hd
    obtain ⟨hfam, _, _, hlow⟩ := wordXYN_eq_iff.mp hop
    obtain ⟨hpos, hover⟩ := not_or.mp hn
    exact .of_span hgk rfl (.inr (.inr ⟨hfam, hlow ▸ hpos, hlow ▸ Nat.not_le.mp hover⟩))

/-- With the gate open, a failing range check is the error of the store, the load or the draw that the opcode decodes to. -/
theorem RangeCheckFails.dispatch (hsp : s.sp ≤ s.stackDepth) (hgk : s.cfg.gkOpcodes = true) (h : RangeCheckFails op s) :
    dispatch op s = .fault (.outOfRange (max s.index.toNat s.cfg.memSize)) := by
  have hd {i : Instr} (hwf : i.wf = true) (htier : i.isGk = true) (hop : encode i = op) :
      decodeOp s.cfg.gkOpcodes op = .ok i := (decodeOp_gk_iff hwf htier).mpr ⟨hop, hgk⟩
  rcases h with ⟨hfam, hlow, hover⟩ | ⟨hfam, hlow | hlow, hover⟩ | ⟨hfam, hpos, hover⟩
  · exact dispatch_of_not_ready hsp (i := .ldBVx (xRegister op)) (hd rfl rfl (wordXNN_eq_iff.mpr ⟨hfam, rfl, hlow⟩))
      (Nat.not_le.mpr hover) rfl
  · exact dispatch_of_not_ready hsp (i := .ldMemVx (xRegister op)) (hd rfl rfl (wordXNN_eq_iff.mpr ⟨hfam, rfl, hlow⟩))
      (Nat.not_le.mpr hover) rfl
  · exact dispatch_of_not_ready hsp (i := .ldVxMem (xRegister op)) (hd rfl rfl (wordXNN_eq_iff.mpr ⟨hfam, rfl, hlow⟩))
      (Nat.not_le.mpr hover) rfl
  · have hop : encode (.drwVxVyNibble (xRegister op) (yRegister op) (nField op)) = op :=
      wordXYN_eq_iff.mpr ⟨hfam, rfl, rfl, (nField_toNat op).symm⟩
    rw [← nField_toNat] at hpos hover
    exact dispatch_of_not_ready hsp (hd rfl rfl hop) (not_or.mpr ⟨hpos, Nat.not_le.mpr hover⟩) rfl

/-- A dispatch raises exactly the errors of the table. -/
theorem dispatch_fault_iff (hsp : s.sp ≤ s.stackDepth) : dispatch op s = .fault f ↔ FaultCause op s f := by
  constructor
  · intro h
    rcases (dispatch_fault h).2 with ⟨e, hd, hf⟩ | ⟨i, hd, hx⟩
    · obtain ⟨rfl, _⟩ := decodeOp_error_iff.mp hd
      exact .inl ⟨hd, hf⟩
    · obtain ⟨hn, hf⟩ := exec_fault hsp hx
      exact .of_not_ready hsp hd hn hf
  · rintro (⟨hd, rfl⟩ | ⟨hfam, hcls, hret, rfl⟩ | ⟨hfam, hfull, rfl⟩ | ⟨rfl, hempty, rfl⟩ |
      ⟨hgk, hfam, hlow, hkey, rfl⟩ | ⟨hgk, rfl, hspan⟩)
    · exact dispatch_of_undecoded hsp hd
    · have hd : decodeOp s.cfg.gkOpcodes op = .ok (.sys (nnnField op)) :=
        decodeOp_sys_iff.mpr ⟨hfam, hcls, hret, nnnField_toNat op⟩
      exact dispatch_of_not_ready hsp hd id (congrArg (some ∘ Fault.unsupportedInstruction) (encode_of_decodeOp hd).1)
    · have hop : encode (.callAddr (nnnField op)) = op := wordNNN_of_fields hfam
      exact dispatch_of_not_ready hsp ((decodeOp_source_iff rfl rfl).mpr hop) (Nat.not_lt.mpr hfull.ge)
        (congrArg (some ∘ Fault.stackViolation .overflow) hop)
    · exact dispatch_of_not_ready hsp (i := .ret) ((decodeOp_source_iff rfl rfl).mpr rfl)
        (fun hr => Nat.ne_of_gt hr.1 hempty) rfl
    · rcases hlow with hlow | hlow
      · exact dispatch_of_not_ready hsp (i := .skpVx (xRegister op))
          ((decodeOp_gk_iff rfl rfl).mpr ⟨wordXNN_eq_iff.mpr ⟨hfam, rfl, hlow⟩, hgk⟩) (Nat.not_lt.mpr hkey) rfl
      · exact dispatch_of_not_ready hsp (i := .sknpVx (xRegister op))
          ((decodeOp_gk_iff rfl rfl).mpr ⟨wordXNN_eq_iff.mpr ⟨hfam, rfl, hlow⟩, hgk⟩) (Nat.not_lt.mpr hkey) rfl
    · exact hspan.dispatch hsp hgk

end causes

/-- Settles O10: the fetch check comes first; past it a step is a dispatch of the word fetched, whose errors are the
table's. -/
theorem stepErrorCauses : Obligations.StepErrorCauses := by
  intro s f hsp
  obtain ⟨hdispatch, hfetch⟩ := fetchChecksRange s hsp
  rcases Nat.lt_or_ge (s.pc.toNat + 1) s.cfg.memSize with hlt | hge
  · rw [hdispatch hlt, or_iff_right fun h => Nat.not_le.mpr hlt h.1, and_iff_right hlt, exists_eq_left]
    exact dispatch_fault_iff hsp
  · rw [hfetch hge, or_iff_left fun h => Nat.not_le.mpr h.1 hge, and_iff_right hge, Host.Outcome.fault.injEq, eq_comm]

/-- Only an error of the dispatch is an error to its caller, who gets the report and the state it gave (R206). -/
theorem transact_err {op : Word} {s t : State} {r : ErrReport} (h : transact op s = .err r t) :
    t = s ∧ ∃ f, dispatch op s = .fault f ∧ r = f.report := by
  unfold transact at h
  split at h <;> cases h
  case h_2 f hf => exact ⟨rfl, f, hf, rfl⟩

/-- Settles O11: the caller gets the report of the dispatch's error, and each error of the table has its line in R200. -/
theorem errorReturnsStateUnchanged : Obligations.ErrorReturnsStateUnchanged := by
  intro op s t r h
  obtain ⟨rfl, f, hf, rfl⟩ := transact_err h
  refine ⟨rfl, ?_⟩
  rcases (dispatch_fault_iff (dispatch_fault hf).1).mp hf with ⟨hd, rfl⟩ | ⟨hfam, hcls, hret, rfl⟩ | ⟨hfam, hfull, rfl⟩ |
    ⟨hop, hempty, rfl⟩ | ⟨hgk, hfam, hlow, hkey, rfl⟩ | ⟨hgk, rfl, hspan⟩
  · exact .inr (.inl ⟨rfl, hd⟩)
  · exact .inl ⟨rfl, hfam, hcls, hret⟩
  · exact .inr (.inr (.inl ⟨rfl, hfam, hfull⟩))
  · exact .inr (.inr (.inr (.inl ⟨rfl, hop, hempty⟩)))
  · exact .inr (.inr (.inr (.inr (.inr ⟨hgk, rfl, hfam, hlow, hkey⟩))))
  · exact .inr (.inr (.inr (.inr (.inl ⟨hgk, rfl, hspan⟩))))

end Sys2Proof.Machine
end

section
namespace Sys2Proof

/-! ### What each instruction may write: the table that R22 to R33 give, once -/

/-- The general registers an instruction may write (R22). -/
def Instr.writtenRegs : Instr → List RegIx
  | .ldVxByte x _ | .addVxByte x _ | .rndVxByte x _ | .ldVxVy x _ | .orVxVy x _ | .andVxVy x _ | .xorVxVy x _
  | .ldVxDt x | .ldVxK x => [x]
  | .addVxVy x _ | .subVxVy x _ | .shrVxVy x _ | .subnVxVy x _ | .shlVxVy x _ => [x, 15]
  | .drwVxVyNibble .. => [15]
  | .ldVxMem x => (List.finRange 16).filter (· ≤ x)
  | .sys _ | .cls | .ret | .jpAddr _ | .callAddr _ | .seVxByte .. | .sneVxByte .. | .seVxVy .. | .sneVxVy .. | .ldIAddr _
  | .jpV0Addr _ | .skpVx _ | .sknpVx _ | .ldDtVx _ | .ldStVx _ | .addIVx _ | .ldFVx _ | .ldBVx _ | .ldMemVx _ => []

end Sys2Proof
end

section
namespace Sys2Proof.Machine

/-- I, where FX55 and FX65 advance it (D19). -/
def transferParts (cfg : Config) : List Part := if cfg.ldstIncI then [.index] else []

/-- The parts of the state beside the general registers and pc that an instruction may write. -/
def writtenParts (cfg : Config) : Instr → List Part
  | .cls | .drwVxVyNibble .. => [.disp]
  | .ret => [.sp]
  | .callAddr _ => [.stack, .sp]
  | .ldIAddr _ | .addIVx _ | .ldFVx _ => [.index]
  | .rndVxByte .. => [.draws]
  | .ldDtVx _ => [.dt]
  | .ldStVx _ => [.st]
  | .ldBVx _ => [.mem]
  | .ldMemVx _ => .mem :: transferParts cfg
  | .ldVxMem _ => transferParts cfg
  | .sys _ | .jpAddr _ | .seVxByte .. | .sneVxByte .. | .seVxVy .. | .ldVxByte .. | .addVxByte .. | .ldVxVy .. | .orVxVy ..
  | .andVxVy .. | .xorVxVy .. | .addVxVy .. | .subVxVy .. | .shrVxVy .. | .subnVxVy .. | .shlVxVy .. | .sneVxVy ..
  | .jpV0Addr _ | .skpVx _ | .sknpVx _ | .ldVxDt _ | .ldVxK _ => []

theorem Frame.refl (regs : List RegIx) (parts : List Part) (s : State) : Frame regs parts s s :=
  ⟨fun _ _ => rfl, fun p _ => by cases p <;> simp [Part.same]⟩

theorem Frame.advance {regs : List RegIx} {parts : List Part} {s t : State} (h : Frame regs parts s t) :
    Frame regs parts s t.advance := h.trans (t.frame_advance regs parts)

theorem State.frame_countDraw (regs : List RegIx) {parts : List Part} (h : .draws ∈ parts) (s : State) :
    Frame regs parts s s.countDraw := by
  refine ⟨fun j _ => s.countDraw_getV j, fun p hp => ?_⟩
  cases p
  case draws => exact absurd h hp
  all_goals simp [Part.same]

theorem frame_skipOnKeyEffect (regs : List RegIx) (parts : List Part) (s : State) (x : RegIx) (down : Bool) :
    Frame regs parts s (skipOnKeyEffect s x down) := by
  unfold skipOnKeyEffect
  split
  · exact s.frame_skipIf regs parts _
  · exact .refl regs parts s

/-- FX55 and FX65 write I only under LDST_INC_I; otherwise they write back what stood there. -/
theorem State.frame_setIndex_indexAfterTransfer (regs : List RegIx) {parts : List Part} {s t : State}
    (h : transferParts s.cfg ⊆ parts) (hindex : t.index = s.index) (x : RegIx) :
    Frame regs parts t (t.setIndex (s.indexAfterTransfer x)) := by
  unfold transferParts at h
  unfold State.indexAfterTransfer
  split
  case isTrue hinc => exact t.frame_setIndex regs (h (by simp [hinc])) _
  case isFalse => rw [← hindex]; exact .refl regs parts t

/-- THE FRAME of every instruction: it writes at most what its row of the table says. -/
theorem effect_frame (s : State) : ∀ i : Instr, Frame i.writtenRegs (writtenParts s.cfg i) s (effect i s)
  | .sys _ => .refl _ _ s
  | .cls => (s.frame_setDisp _ (List.mem_singleton_self _) _).advance
  | .ret => s.frame_pop _ (List.mem_singleton_self _)
  | .jpAddr _ | .jpV0Addr _ => s.frame_setPc _ _ _
  | .callAddr _ => (s.frame_push [] (parts := [.stack, .sp]) (by simp) (by simp)).trans (State.frame_setPc _ _ _ _)
  | .seVxByte .. | .sneVxByte .. | .seVxVy .. | .sneVxVy .. => s.frame_skipIf _ _ _
  | .ldVxByte .. | .addVxByte .. | .ldVxVy .. | .orVxVy .. | .andVxVy .. | .xorVxVy .. | .ldVxDt _ =>
    (s.frame_setV (List.mem_singleton_self _) _ _).advance
  | .addVxVy .. | .subVxVy .. | .shrVxVy .. | .subnVxVy .. | .shlVxVy .. =>
    (s.frame_setResultAndFlag List.mem_cons_self (List.mem_cons_of_mem _ (List.mem_singleton_self _)) _ _ _).advance
  | .ldIAddr _ | .addIVx _ | .ldFVx _ => (s.frame_setIndex _ (List.mem_singleton_self _) _).advance
  | .rndVxByte .. =>
    ((s.frame_setV (List.mem_singleton_self _) _ _).trans
      (State.frame_countDraw _ (List.mem_singleton_self _) _)).advance
  | .drwVxVyNibble .. =>
    ((s.frame_setDisp [15] (parts := [.disp]) (List.mem_singleton_self _) _).trans
      (State.frame_setV (List.mem_singleton_self _) _ _ _)).advance
  | .skpVx x => frame_skipOnKeyEffect _ _ s x true
  | .sknpVx x => frame_skipOnKeyEffect _ _ s x false
  | .ldVxK x => by
    cases hscan : s.lowestKey with
    | some k =>
      rw [effect_ldVxK_of_lowestKey_some x hscan]
      exact (s.frame_setV (List.mem_singleton_self x) _ _).advance
    | none => rw [effect_ldVxK_of_lowestKey_none x hscan]; exact .refl _ _ s
  | .ldDtVx _ => (s.frame_setDt _ (List.mem_singleton_self _) _).advance
  | .ldStVx _ => (s.frame_setSt _ (List.mem_singleton_self _) _).advance
  | .ldBVx _ => (s.frame_setBytes _ (List.mem_singleton_self _) _ _).advance
  | .ldMemVx x =>
    ((s.frame_setBytes [] (parts := .mem :: transferParts s.cfg) List.mem_cons_self _ (s.regsUpTo x)).trans
      (State.frame_setIndex_indexAfterTransfer _ (List.subset_cons_self _ _) (s.setBytes_index _ _) x)).advance
  | .ldVxMem x => by
    change Frame ((List.finRange 16).filter (· ≤ x)) (transferParts s.cfg) s _
    refine ((State.frame_setAllV _ fun j hj => if_neg ?_).trans
      (State.frame_setIndex_indexAfterTransfer _ (List.Subset.refl _) (s.setAllV_index _) x)).advance
    exact fun hle => hj (List.mem_filter.mpr ⟨List.mem_finRange j, decide_eq_true hle⟩)

/-! ### The table read by part -/

section table
variable {cfg : Config} {i : Instr}

@[simp] theorem mem_transferParts {p : Part} : p ∈ transferParts cfg ↔ p = .index ∧ cfg.ldstIncI = true := by
  unfold transferParts
  split <;> simp [*]

theorem stack_mem_writtenParts : .stack ∈ writtenParts cfg i ↔ ∃ nnn, i = .callAddr nnn := by
  cases i <;> simp [writtenParts]

theorem sp_mem_writtenParts : .sp ∈ writtenParts cfg i ↔ (∃ nnn, i = .callAddr nnn) ∨ i = .ret := by
  cases i <;> simp [writtenParts]

theorem index_mem_writtenParts : .index ∈ writtenParts cfg i ↔
    (∃ nnn, i = .ldIAddr nnn) ∨ (∃ x, i = .addIVx x ∨ i = .ldFVx x) ∨
      (cfg.ldstIncI = true ∧ ∃ x, i = .ldMemVx x ∨ i = .ldVxMem x) := by
  cases i <;> simp [writtenParts]

theorem disp_mem_writtenParts : .disp ∈ writtenParts cfg i ↔ i = .cls ∨ ∃ x y n, i = .drwVxVyNibble x y n := by
  cases i <;> simp [writtenParts]

theorem dt_mem_writtenParts : .dt ∈ writtenParts cfg i ↔ ∃ x, i = .ldDtVx x := by
  cases i <;> simp [writtenParts]

theorem st_mem_writtenParts : .st ∈ writtenParts cfg i ↔ ∃ x, i = .ldStVx x := by
  cases i <;> simp [writtenParts]

theorem mem_mem_writtenParts : .mem ∈ writtenParts cfg i ↔ ∃ x, i = .ldBVx x ∨ i = .ldMemVx x := by
  cases i <;> simp [writtenParts]

theorem keys_notMem_writtenParts : .keys ∉ writtenParts cfg i := by
  cases i <;> simp [writtenParts]

theorem cfg_notMem_writtenParts : .cfg ∉ writtenParts cfg i := by
  cases i <;> simp [writtenParts]

end table

/-! ### Who writes what (R22, R26 to R31) -/

section writes
variable {i : Instr} {s t : State}

/-- What a completed instruction changed stands in the table. -/
theorem exec_frame (h : exec i s = .next t) : Frame i.writtenRegs (writtenParts s.cfg i) s t := by
  obtain ⟨_, rfl⟩ := exec_next h
  exact effect_frame s i

theorem exec_same {p : Part} (h : exec i s = .next t) (hp : p ∉ writtenParts s.cfg i) : p.same s t := (exec_frame h).2 p hp

theorem mem_writtenParts_of_not_same {p : Part} (h : exec i s = .next t) (hp : ¬ p.same s t) :
    p ∈ writtenParts s.cfg i := by_contra fun hn => hp (exec_same h hn)

theorem exec_stackDepth (h : exec i s = .next t) : t.stackDepth = s.stackDepth := by
  by_cases hstack : .stack ∈ writtenParts s.cfg i
  · obtain ⟨nnn, rfl⟩ := stack_mem_writtenParts.mp hstack
    obtain ⟨_, rfl⟩ := exec_next h
    exact s.push_stackDepth
  · exact congrArg List.length (exec_same h hstack)

/-- Memory itself, not only what it reads as, is what it was. -/
theorem exec_mem_of_notMem (h : exec i s = .next t) (hmem : .mem ∉ writtenParts s.cfg i) : t.mem = s.mem := by
  obtain ⟨_, rfl⟩ := exec_next h
  cases i
  case skpVx | sknpVx => simp only [effect, skipOnKeyEffect]; split <;> rfl
  case ldVxK => simp only [effect]; split <;> rfl
  case ldBVx | ldMemVx => exact absurd (mem_mem_writtenParts.mpr (by simp)) hmem
  all_goals simp [effect]

/-- `setBytes` changes no byte but those it writes. -/
theorem State.span_of_byteAt_setBytes_ne {a c : Nat} {bs : List Byte} (h : (s.setBytes a bs).byteAt c ≠ s.byteAt c) :
    a ≤ c ∧ c < a + bs.length := by
  by_contra hn
  exact h (s.keptOutside_setBytes a bs c (by omega))

end writes

/-- Settles O17: no row of the table lists the parameters or the keys, and a push keeps the number of slots. -/
theorem stepKeepsParametersAndKeys : Obligations.StepKeepsParametersAndKeys := by
  intro s t h
  obtain ⟨_, _, i, _, _, hx⟩ := step_next h
  exact ⟨exec_same hx cfg_notMem_writtenParts, exec_stackDepth hx, exec_same hx keys_notMem_writtenParts⟩

/-- Settles O19: the table lists the stack with 2NNN and sp with 2NNN and 00EE alone, which push and pop. -/
theorem onlyCallAndReturnMoveTheStack : Obligations.OnlyCallAndReturnMoveTheStack := by
  intro i s t h
  constructor
  case left =>
    by_cases hstack : .stack ∈ writtenParts s.cfg i
    · obtain ⟨nnn, rfl⟩ := stack_mem_writtenParts.mp hstack
      obtain ⟨_, rfl⟩ := exec_next h
      exact .inr ⟨⟨nnn, rfl⟩, fun k hk => s.push_stack_getD_of_ne hk⟩
    · exact .inl (exec_same h hstack)
  case right =>
    by_cases hsp : .sp ∈ writtenParts s.cfg i
    · obtain ⟨hready, rfl⟩ := exec_next h
      rcases sp_mem_writtenParts.mp hsp with ⟨nnn, rfl⟩ | rfl
      · exact .inr (.inl ⟨⟨nnn, rfl⟩, s.push_sp⟩)
      · exact .inr (.inr ⟨rfl, Nat.sub_add_cancel hready.1⟩)
    · exact .inl (exec_same h hsp)

/-- Settles O20: the table lists the display with 00E0 and DXYN, DT with FX15 and ST with FX18 alone. -/
theorem onlyListedInstructionsWriteDisplayAndTimers : Obligations.OnlyListedInstructionsWriteDisplayAndTimers := by
  intro i s t h
  refine ⟨fun ⟨k, hk⟩ => ?disp, fun hdt => ?dt, fun hst => ?st⟩
  case disp => exact disp_mem_writtenParts.mp (mem_writtenParts_of_not_same h fun hsame => hk (hsame k))
  case dt => exact dt_mem_writtenParts.mp (mem_writtenParts_of_not_same h hdt)
  case st => exact st_mem_writtenParts.mp (mem_writtenParts_of_not_same h hst)

/-- Settles O21: the table lists I with ANNN, FX1E and FX29, and with FX55 and FX65 under LDST_INC_I. -/
theorem onlyListedInstructionsWriteIndex : Obligations.OnlyListedInstructionsWriteIndex := by
  intro i s t h hindex
  exact index_mem_writtenParts.mp (mem_writtenParts_of_not_same h hindex)

/-- Settles O22: the table lists memory with FX33 and FX55 alone, and each writes a row of bytes that its range check
passed. -/
theorem onlyStoresWriteMemory : Obligations.OnlyStoresWriteMemory := by
  intro i s t a h ha
  obtain ⟨x, rfl | rfl⟩ := mem_mem_writtenParts.mp (mem_writtenParts_of_not_same h fun hsame => ha (hsame a))
  all_goals obtain ⟨hready, rfl⟩ := exec_next h
  · obtain ⟨hlow, hhigh⟩ := State.span_of_byteAt_setBytes_ne ha
    exact ⟨3, hlow, hhigh, hready, .inl ⟨rfl, x, rfl⟩⟩
  · obtain ⟨hlow, hhigh⟩ := State.span_of_byteAt_setBytes_ne (bs := s.regsUpTo x) ha
    rw [State.regsUpTo_length] at hhigh
    exact ⟨x.val + 1, hlow, hhigh, hready, .inr ⟨x, rfl, rfl⟩⟩

/-- Settles O23: the table of the registers each instruction writes. -/
theorem onlyListedInstructionsWriteRegisters : Obligations.OnlyListedInstructionsWriteRegisters := by
  intro i s t j h hj
  refine (?table : j ∈ i.writtenRegs → _) (by_contra fun hn => hj ((exec_frame h).1 j hn))
  case table => cases i <;> simp [Instr.writtenRegs, @eq_comm _ j]

/-! ### The invariant -/

theorem exec_sp_le {i : Instr} {s t : State} (h : exec i s = .next t) (hsp : s.sp ≤ s.stackDepth) : t.sp ≤ t.stackDepth := by
  rw [exec_stackDepth h]
  rcases (onlyCallAndReturnMoveTheStack i s t h).2 with hsame | ⟨⟨nnn, rfl⟩, hup⟩ | ⟨_, hdown⟩
  · exact hsame ▸ hsp
  · exact hup ▸ (exec_next h).1
  · omega

/-- Every completed instruction keeps the invariant: only the two stores touch memory, within its bounds. -/
theorem exec_inv {i : Instr} {s t : State} (hinv : s.Inv) (h : exec i s = .next t) : t.Inv := by
  by_cases hmem : .mem ∈ writtenParts s.cfg i
  · obtain ⟨x, rfl | rfl⟩ := mem_mem_writtenParts.mp hmem
    all_goals obtain ⟨hready, rfl⟩ := exec_next h
    · exact State.setBytes_inv (decimalDigits (s.getV x)) hinv hready
    · exact State.setBytes_inv (s.regsUpTo x) hinv (by rwa [State.regsUpTo_length])
  · obtain ⟨hwf, hbound, hsp⟩ := hinv
    have hcfg : t.cfg = s.cfg := exec_same h cfg_notMem_writtenParts
    rw [State.Inv, exec_mem_of_notMem h hmem, hcfg]
    exact ⟨hwf, hbound, exec_sp_le h hsp⟩

/-- Settles O15: a step that completes is one instruction. -/
theorem stepKeepsTheInvariant : Obligations.StepKeepsTheInvariant := by
  intro s t hinv h
  obtain ⟨_, _, i, _, _, hx⟩ := step_next h
  exact exec_inv hinv hx

/-- Settles O16: core steps and host steps each keep the invariant, so every schedule of them does. -/
theorem scheduledRunKeepsTheInvariant : Obligations.ScheduledRunKeepsTheInvariant :=
  runSchedule_keeps State.Inv stepKeepsTheInvariant fun e _ hinv => e.apply_inv hinv

/-! ### How an instruction leaves pc (R24) -/

theorem State.advance_pc_toNat (s : State) : s.advance.pc.toNat = (s.pc.toNat + 2) % 65536 := BitVec.toNat_add s.pc 2

theorem State.skipIf_pc_toNat (s : State) (c : Bool) :
    (s.skipIf c).pc.toNat = (s.pc.toNat + 2) % 65536 ∨ (s.skipIf c).pc.toNat = (s.pc.toNat + 4) % 65536 := by
  cases c with
  | true => exact .inr (BitVec.toNat_add s.pc 4)
  | false => exact .inl (BitVec.toNat_add s.pc 2)

theorem skipOnKeyEffect_pc_toNat {s : State} {x : RegIx} (down : Bool) (h : (s.getV x).toNat < 16) :
    (skipOnKeyEffect s x down).pc.toNat = (s.pc.toNat + 2) % 65536 ∨
      (skipOnKeyEffect s x down).pc.toNat = (s.pc.toNat + 4) % 65536 := by
  rw [skipOnKeyEffect_of_toNat_eq (k := ⟨_, h⟩) down rfl]
  exact s.skipIf_pc_toNat _

/-- Settles O24: the jumps, calls and returns write pc, the skips add 2 or 4, FX0A waits where it is, and every other
instruction ends in the normal advance. -/
theorem eachInstructionLeavesPcInOneOfFourWays : Obligations.EachInstructionLeavesPcInOneOfFourWays := by
  intro i s t h
  obtain ⟨hready, rfl⟩ := exec_next h
  cases i
  case sys => exact hready.elim
  case jpAddr nnn => exact .inr (.inr (.inl ⟨nnn, .inl rfl, zextAddr_toNat nnn⟩))
  case callAddr nnn => exact .inr (.inr (.inl ⟨nnn, .inr rfl, zextAddr_toNat nnn⟩))
  case jpV0Addr nnn => exact .inr (.inr (.inr (.inl ⟨nnn, rfl, zextAddr_add_zextByte_toNat nnn (s.getV 0)⟩)))
  case ret => exact .inr (.inr (.inr (.inr (.inl ⟨rfl, s.pop_pc⟩))))
  case seVxByte x nn => exact (s.skipIf_pc_toNat _).imp_right fun hpc => .inl ⟨hpc, .inl ⟨x, nn, .inl rfl⟩⟩
  case sneVxByte x nn => exact (s.skipIf_pc_toNat _).imp_right fun hpc => .inl ⟨hpc, .inl ⟨x, nn, .inr rfl⟩⟩
  case seVxVy x y => exact (s.skipIf_pc_toNat _).imp_right fun hpc => .inl ⟨hpc, .inr (.inl ⟨x, y, .inl rfl⟩)⟩
  case sneVxVy x y => exact (s.skipIf_pc_toNat _).imp_right fun hpc => .inl ⟨hpc, .inr (.inl ⟨x, y, .inr rfl⟩)⟩
  case skpVx x => exact (skipOnKeyEffect_pc_toNat true hready).imp_right fun hpc => .inl ⟨hpc, .inr (.inr ⟨x, .inl rfl⟩)⟩
  case sknpVx x =>
    exact (skipOnKeyEffect_pc_toNat false hready).imp_right fun hpc => .inl ⟨hpc, .inr (.inr ⟨x, .inr rfl⟩)⟩
  case ldVxK x =>
    cases hscan : s.lowestKey with
    | some k => rw [effect_ldVxK_of_lowestKey_some x hscan]; exact .inl (State.advance_pc_toNat _)
    | none =>
      rw [effect_ldVxK_of_lowestKey_none x hscan]
      exact .inr (.inr (.inr (.inr (.inr ⟨rfl, ⟨x, rfl⟩, s.lowestKey_none.mp hscan⟩))))
  case ldBVx | ldMemVx | ldVxMem => exact .inl (by simp [effect, BitVec.toNat_add])
  all_goals exact .inl (State.advance_pc_toNat _)

end Sys2Proof.Machine
end

section
namespace Sys2Proof.Machine

/-! ### CALL and RET together (R102, R111) -/

/-- A call and the return from it leave the state itself but for the slot pushed. -/
theorem effect_ret_effect_callAddr (nnn : Addr) {s : State} (h : s.sp < s.stackDepth) :
    effect .ret (effect (.callAddr nnn) s) = { s with stack := s.stack.set s.sp s.pc } := by
  have hslot : (s.stack.set s.sp s.pc).getD s.sp 0 = s.pc := State.push_stack_getD_sp h
  simp only [effect, State.pop, State.setPc, State.push, Nat.add_sub_cancel, hslot]

/-- Calling again after the return writes the same slot with the same address. -/
theorem effect_callAddr_effect_ret (nnn : Addr) {s : State} (h : s.sp < s.stackDepth) :
    effect (.callAddr nnn) (effect .ret (effect (.callAddr nnn) s)) = effect (.callAddr nnn) s := by
  rw [effect_ret_effect_callAddr nnn h]
  simp only [effect, State.setPc, State.push, List.set_set]

/-- Settles O30: CALL is ready, RET after it is ready, and the two effects in a row write the slot pushed alone. -/
theorem returnInvertsCall : Obligations.ReturnInvertsCall := by
  intro nnn s h
  refine ⟨_, _, exec_of_ready (i := .callAddr nnn) h, exec_of_ready (ready_ret_effect_callAddr h), ?_⟩
  rw [effect_ret_effect_callAddr nnn h]
  refine ⟨rfl, rfl, fun k hk => s.push_stack_getD_of_ne hk, fun _ _ => rfl, fun p hp => ?frame⟩
  case frame =>
    cases p
    case stack => exact absurd (List.mem_singleton_self _) hp
    case disp | keys | mem => exact fun _ => rfl
    all_goals rfl

/-- A step runs the instruction of the two bytes at pc. -/
theorem step_of_opcode {s : State} {op : Word} {i : Instr} (hsp : s.sp ≤ s.stackDepth)
    (hlt : s.pc.toNat + 1 < s.cfg.memSize) (hop : joinBytes (s.byteAt s.pc.toNat) (s.byteAt (s.pc.toNat + 1)) = op)
    (hd : decodeOp s.cfg.gkOpcodes op = .ok i) : step s = exec i s := by
  rw [step_of_fetched hsp (State.fetch_of_lt hlt), hop, dispatch_of_decoded hsp hd]

/-- A step at a CALL with a slot free. -/
theorem step_callAddr {nnn : Addr} {s : State} (hfree : s.sp < s.stackDepth) (hlt : s.pc.toNat + 1 < s.cfg.memSize)
    (hop : joinBytes (s.byteAt s.pc.toNat) (s.byteAt (s.pc.toNat + 1)) = wordNNN 0x2 nnn) :
    step s = .next (effect (.callAddr nnn) s) :=
  (step_of_opcode (Nat.le_of_lt hfree) hlt hop (sourceTier_callAddr nnn _)).trans (exec_of_ready hfree)

/-- Settles O31: the call's target holds the RET, the return brings back all but the slot pushed, and the CALL fetched again
writes that slot as it is. -/
theorem returnRunsTheCallAgain : Obligations.ReturnRunsTheCallAgain := by
  intro s nnn hfree hlt hltTarget hcall hret
  have hready := ready_ret_effect_callAddr (nnn := nnn) hfree
  have hback := effect_ret_effect_callAddr nnn hfree
  have htarget : (effect (.callAddr nnn) s).pc.toNat = nnn.toNat := zextAddr_toNat nnn
  have hreturn : step (effect (.callAddr nnn) s) = exec .ret (effect (.callAddr nnn) s) :=
    step_of_opcode hready.2 (htarget ▸ hltTarget) (by rw [htarget]; exact hret) (sourceTier_ret _)
  refine ⟨_, _, step_callAddr hfree hlt hcall, hreturn.trans (exec_of_ready hready), ?pc, ?sp, ?fetch, ?again⟩
  case pc | sp => rw [hback]
  case fetch => rw [hback]; rfl
  case again =>
    have hfreeAgain : s.sp < (s.stack.set s.sp s.pc).length := by rw [List.length_set]; exact hfree
    have hagain := step_callAddr (s := { s with stack := s.stack.set s.sp s.pc }) hfreeAgain hlt hcall
    rw [hback, hagain, ← hback, effect_callAddr_effect_ret nnn hfree]

/-! ### The end of a run (R236) -/

theorem State.setPc_self (s : State) : s.setPc s.pc = s := rfl

/-- Settles O33: the opcode is a JP to pc, whose effect is the write of pc to itself. -/
theorem selfJumpEndsTheRun : Obligations.SelfJumpEndsTheRun := by
  intro s hsp hfinished
  unfold State.finished at hfinished
  split at hfinished
  case h_1 op hfetch =>
    obtain ⟨hfam, htarget⟩ : family op = 0x1 ∧ zextAddr (nnnField op) = s.pc := by simpa using hfinished
    have hd : decodeOp s.cfg.gkOpcodes op = .ok (.jpAddr (nnnField op)) :=
      (decodeOp_source_iff rfl rfl).mpr (wordNNN_of_fields hfam)
    rw [step_of_fetched hsp hfetch, dispatch_of_decoded hsp hd, exec_of_ready (i := .jpAddr _) trivial, effect, htarget,
      State.setPc_self]
  case h_2 => exact absurd hfinished Bool.false_ne_true

/-! ### The loader (R213, R232 to R234) -/

theorem State.launch_inv (cfg : Config) (depth : Nat) (entry : Word) : (State.launch cfg depth entry).Inv :=
  ⟨⟨.nil, nofun⟩, nofun, Nat.zero_le _⟩

/-- Settles O13: a launched state lists no byte of memory and has sp = 0. -/
theorem resetMeetsTheInvariant : Obligations.ResetMeetsTheInvariant :=
  ⟨State.launch_inv _ _ _, State.launch_inv⟩

/-- Settles O14: each value read back from the launched state. -/
theorem canonicalResetValues : Obligations.CanonicalResetValues := by
  intro cfg depth entry
  refine ⟨?registers, rfl, ?depth, ?stack, rfl, rfl, rfl, ?cells, ?keys, fun _ => rfl, rfl⟩
  case registers => simp [State.getV, State.launch]
  case depth => exact List.length_replicate
  case stack => simp [State.launch]
  case cells => exact Display.cell_clear
  case keys => simp [State.key, State.launch]

/-- Settles O18: the image is loaded last, so it stands whole; and it lies clear of the font. -/
theorem bootLoadsImageAndFont : Obligations.BootLoadsImageAndFont := by
  intro cfg depth entry image himage
  have hcfg : (State.launch cfg depth entry).loadFont.cfg = cfg := State.loadFont_cfg _
  refine ⟨?inv, rfl, ?sp, fun k hk => ?image, fun hclear => ?font⟩
  case inv => exact State.loadBytes_inv image _ (State.loadFont_inv (State.launch_inv cfg depth entry))
  case sp => simp [boot]
  case image =>
    change ((State.launch cfg depth entry).loadFont.loadBytes entry.toNat image).byteAt _ = _
    rw [State.byteAt_loadBytes, hcfg, if_pos (by omega), Nat.add_sub_cancel_left, blankByte]
  case font =>
    have hroom : cfg.fontBase + 80 ≤ cfg.memSize := by omega
    exact State.loadBytes_holdsFont (State.loadFont_holdsFont hroom) (by rw [hcfg]; omega)

/-! ### The font (R162, R233) -/

/-- Settles O59: the font loaded stands at FONT_BASE; and FX29 points I at 5d from there, without a wrap, and leaves memory. -/
theorem glyphPointerFindsTheGlyph : Obligations.GlyphPointerFindsTheGlyph := by
  refine ⟨fun s => State.loadFont_holdsFont, fun s x d hfont hroom hd => ?_⟩
  obtain ⟨_, t, hexec, hindex, _, hframe⟩ := glyphPointer x s
  have hmem : Part.mem.same s t := hframe.2 _ (by decide)
  refine ⟨t, hexec, fun k hk => ?_⟩
  have hlt := d.isLt
  rw [hindex, ← hd, Nat.mod_eq_of_lt (by omega), hmem]
  exact hfont d k hk

/-! ### A store into the next opcode (R64, R242) -/

/-- What holds of every byte of memory holds of the two bytes a fetch takes. -/
theorem State.fetch_bytes {s : State} {P : Nat → Byte → Prop} (hlt : s.pc.toNat + 1 < s.cfg.memSize)
    (hP : ∀ a, P a (s.byteAt a)) :
    ∃ hi lo : Byte, s.fetch = some (hi ++ lo) ∧
      ∀ a b, (a = s.pc.toNat ∧ b = hi) ∨ (a = s.pc.toNat + 1 ∧ b = lo) → P a b := by
  refine ⟨_, _, State.fetch_of_lt hlt, ?_⟩
  rintro a b (⟨rfl, rfl⟩ | ⟨rfl, rfl⟩)
  · exact hP _
  · exact hP _

/-- Settles O50: every byte of memory after the store is the one stored there or the one that stood there, so both bytes of
the next fetch are. -/
theorem storedOpcodeIsFetched : Obligations.StoredOpcodeIsFetched := by
  intro x s t hlt
  have hfetchable {i : Instr} (h : exec i s = .next t) : t.pc.toNat + 1 < t.cfg.memSize := by
    have hcfg : t.cfg = s.cfg := exec_same h cfg_notMem_writtenParts
    rwa [hcfg]
  refine ⟨fun h => State.fetch_bytes (hfetchable h) fun a => ?registers,
    fun h => State.fetch_bytes (hfetchable h) fun a => ?digits⟩
  case registers =>
    have hready : s.index.toNat + x.val < s.cfg.memSize := (exec_next h).1
    obtain ⟨u, hu, hstored, hkept, _⟩ := (storeRegisters x s).2.1 hready
    obtain rfl : t = u := Host.Outcome.next.inj (h.symm.trans hu)
    exact ⟨fun j hj ha => ha ▸ hstored j hj, fun ha => hkept a (by omega)⟩
  case digits =>
    have hready : s.index.toNat + 2 < s.cfg.memSize := (exec_next h).1
    obtain ⟨u, hu, h100, h10, h1, hkept, _⟩ := (storeDecimalDigits x s).2.1 hready
    obtain rfl : t = u := Host.Outcome.next.inj (h.symm.trans hu)
    exact ⟨fun ha => ha ▸ h100, fun ha => ha ▸ h10, fun ha => ha ▸ h1, fun ha => hkept a (by omega)⟩

/-! ### CXNN (R180) -/

/-- Settles O51: RND is always ready, and its effect is the write of the masked byte and the count of the draw. -/
theorem randomByteIsMasked : Obligations.RandomByteIsMasked := by
  intro x nn s
  have hbyte : (effect (.rndVxByte x nn) s).getV x = s.randomByte &&& nn := s.setV_getV_same x _
  refine ⟨gkTier_rndVxByte x nn, effect (.rndVxByte x nn) s, exec_of_ready trivial, hbyte, fun k hk => ?masked, rfl, rfl,
    effect_frame s (.rndVxByte x nn)⟩
  case masked => rw [hbyte, BitVec.getLsbD_and, hk, Bool.and_false]

/-! ### The host steps (R214, R215, R217) -/

theorem State.frame_setKey (regs : List RegIx) {parts : List Part} (h : .keys ∈ parts) (s : State) (k : RegIx) (down : Bool) :
    Frame regs parts s (s.setKey k down) := by
  refine ⟨fun j _ => s.setKey_getV k down j, fun p hp => ?_⟩
  cases p
  case keys => exact absurd h hp
  all_goals simp [Part.same]

theorem State.frame_timerTick (regs : List RegIx) {parts : List Part} (hdt : .dt ∈ parts) (hst : .st ∈ parts) (s : State) :
    Frame regs parts s s.timerTick := by
  refine ⟨fun _ _ => rfl, fun p hp => ?_⟩
  cases p
  case dt => exact absurd hdt hp
  case st => exact absurd hst hp
  case disp | keys | mem => exact fun _ => rfl
  all_goals rfl

/-- Settles O56: each host step writes its own part of the state. -/
theorem hostStepEffects : Obligations.HostStepEffects := by
  intro s
  refine ⟨?tick, ?key, rfl⟩
  case tick =>
    rintro _ rfl
    exact ⟨s.timerTick_dt_toNat, s.timerTick_st_toNat, rfl, s.frame_timerTick _ (by decide) (by decide)⟩
  case key =>
    rintro k down _ rfl
    exact ⟨(s.setKey_key k k down).trans (if_pos rfl), fun j hj => (s.setKey_key k j down).trans (if_neg hj), rfl,
      s.frame_setKey _ (by decide) k down⟩

end Sys2Proof.Machine
end

section
namespace Sys2Proof.Machine

/-! ### What the collaborators and the oracle write: an instruction that does not use it runs the same (R214 to R216) -/

/-- An update of the timers, the keys and the draw count, each by a function of what it held. -/
def State.mapPeripherals (f g : Byte → Byte) (k : Vector Bool 16 → Vector Bool 16) (d : Nat → Nat) (s : State) : State :=
  { s with dt := f s.dt, st := g s.st, keys := k s.keys, draws := d s.draws }

/-- Outcomes chosen by a check that does not see the change `F`. -/
theorem ite_eq_mapNext {F : State → State} {c : Prop} [Decidable c] {o o' p p' : Host.Outcome State Fault Refusal}
    (ho : o' = mapNext F o) (hp : p' = mapNext F p) : (if c then o' else p') = mapNext F (if c then o else p) := by
  rw [apply_ite (mapNext F), ho, hp]

section peripherals
variable {f g : Byte → Byte} {k : Vector Bool 16 → Vector Bool 16} {d : Nat → Nat} {s : State}

theorem State.setBytes_mapPeripherals (bs : List Byte) : ∀ (s : State) (a : Nat),
    (s.mapPeripherals f g k d).setBytes a bs = (s.setBytes a bs).mapPeripherals f g k d := by
  induction bs with
  | nil => intro s a; rfl
  | cons b rest ih => intro s a; exact ih (s.setByte a b) (a + 1)

theorem State.setAllV_mapPeripherals (v : RegIx → Byte) (w : Word) :
    (((s.mapPeripherals f g k d).setAllV v).setIndex w).advance =
      ((s.setAllV v).setIndex w).advance.mapPeripherals f g k d := by
  simp only [State.mapPeripherals, State.setAllV, State.setIndex, State.advance]

/-! The shared operations: each reads no peripheral to decide how it ends. -/

theorem State.whenSpanFits_mapPeripherals {a n : Nat} {t u : State} (h : u = t.mapPeripherals f g k d) :
    (s.mapPeripherals f g k d).whenSpanFits a n u = mapNext (State.mapPeripherals f g k d) (s.whenSpanFits a n t) :=
  ite_eq_mapNext (c := s.spanFits a n = true) (congrArg Host.Outcome.next h) rfl

theorem State.whenSpInRange_mapPeripherals {r r' : Host.Outcome State Fault Refusal}
    (h : r' = mapNext (State.mapPeripherals f g k d) r) :
    (s.mapPeripherals f g k d).whenSpInRange r' = mapNext (State.mapPeripherals f g k d) (s.whenSpInRange r) :=
  ite_eq_mapNext (c := s.stackDepth < s.sp) rfl h

theorem State.skipOnKey_mapPeripherals (x : RegIx) (down : Bool) :
    (s.mapPeripherals f g id d).skipOnKey x down = mapNext (State.mapPeripherals f g id d) (s.skipOnKey x down) := by
  rcases Nat.lt_or_ge (s.getV x).toNat 16 with h | h
  · rw [State.skipOnKey_of_lt down h, State.skipOnKey_of_lt (s := s.mapPeripherals f g id d) down h]; rfl
  · rw [State.skipOnKey_of_ge down h, State.skipOnKey_of_ge (s := s.mapPeripherals f g id d) down h]; rfl

theorem execLdVxK_mapPeripherals (x : RegIx) :
    execLdVxK x (s.mapPeripherals f g id d) = mapNext (State.mapPeripherals f g id d) (execLdVxK x s) := by
  have hscan : (s.mapPeripherals f g id d).lowestKey = s.lowestKey := rfl
  unfold execLdVxK
  rw [hscan]
  cases s.lowestKey <;> rfl

/-- An instruction runs the same before and after an update of the timers, the keys and the draw count that leaves what it
uses: DT for FX07 and FX15, ST for FX18, the keys for EX9E, EXA1 and FX0A, the draw count for CXNN. -/
theorem exec_mapPeripherals {i : Instr} (hdt : ∀ x, i = .ldVxDt x ∨ i = .ldDtVx x → f = id)
    (hst : ∀ x, i = .ldStVx x → g = id) (hkeys : ∀ x, i = .skpVx x ∨ i = .sknpVx x ∨ i = .ldVxK x → k = id)
    (hdraws : ∀ x nn, i = .rndVxByte x nn → d = id) :
    exec i (s.mapPeripherals f g k d) = mapNext (State.mapPeripherals f g k d) (exec i s) := by
  cases i
  case ret => exact State.whenSpInRange_mapPeripherals (ite_eq_mapNext (c := s.sp = 0) rfl rfl)
  case callAddr => exact State.whenSpInRange_mapPeripherals (ite_eq_mapNext (c := s.sp = s.stackDepth) rfl rfl)
  case ldVxDt x => obtain rfl := hdt x (.inl rfl); rfl
  case ldDtVx x => obtain rfl := hdt x (.inr rfl); rfl
  case ldStVx x => obtain rfl := hst x rfl; rfl
  case rndVxByte x nn => obtain rfl := hdraws x nn rfl; rfl
  case skpVx x => obtain rfl := hkeys x (.inl rfl); exact State.skipOnKey_mapPeripherals x true
  case sknpVx x => obtain rfl := hkeys x (.inr (.inl rfl)); exact State.skipOnKey_mapPeripherals x false
  case ldVxK x => obtain rfl := hkeys x (.inr (.inr rfl)); exact execLdVxK_mapPeripherals x
  case ldBVx x =>
    exact State.whenSpanFits_mapPeripherals (congrArg State.advance (State.setBytes_mapPeripherals _ s _))
  case ldMemVx x =>
    exact State.whenSpanFits_mapPeripherals
      (congrArg (fun t => (t.setIndex (s.indexAfterTransfer x)).advance) (State.setBytes_mapPeripherals _ s _))
  case drwVxVyNibble => exact State.whenSpanFits_mapPeripherals rfl
  case ldVxMem x =>
    exact State.whenSpanFits_mapPeripherals (State.setAllV_mapPeripherals
      (fun j => if j ≤ x then s.byteAt (s.index.toNat + j.val) else s.getV j) (s.indexAfterTransfer x))
  all_goals rfl

end peripherals

/-- A timer after one tick (R214). -/
def tickedTimer (b : Byte) : Byte := if b = 0 then 0 else b - 1

theorem State.timerTick_eq_mapPeripherals : State.timerTick = State.mapPeripherals tickedTimer tickedTimer id id := rfl

/-- Settles O57: a tick updates the timers alone and a key write the keys alone. -/
theorem hostStepsCommuteWithOtherInstructions : Obligations.HostStepsCommuteWithOtherInstructions := by
  intro i s
  constructor
  case left =>
    intro hno
    have hdt (x : RegIx) (h : i = .ldVxDt x ∨ i = .ldDtVx x) : tickedTimer = id := by
      obtain ⟨hread, hwrite, _⟩ := hno x
      exact (not_or.mpr ⟨hread, hwrite⟩ h).elim
    rw [State.timerTick_eq_mapPeripherals]
    exact exec_mapPeripherals hdt (fun x h => absurd h (hno x).2.2) (fun _ _ => rfl) (fun _ _ _ => rfl)
  case right =>
    intro hno key down
    exact exec_mapPeripherals (f := id) (g := id) (k := fun keys => keys.set key down) (d := id) (fun _ _ => rfl)
      (fun _ _ => rfl) (fun x h => absurd h (by simpa only [not_or] using hno x)) (fun _ _ _ => rfl)

/-- Settles O58: another draw count is an update of that alone. -/
theorem onlyRandomReadsTheOracle : Obligations.OnlyRandomReadsTheOracle := by
  intro i s n hno
  exact exec_mapPeripherals (f := id) (g := id) (k := id) (d := fun _ => n) (fun _ _ => rfl) (fun _ _ => rfl)
    (fun _ _ => rfl) (fun x nn h => absurd h (hno x nn))

end Sys2Proof.Machine
end
